-- ==== Sys2Proof/Word.lean ====
section
/-! DEFINITION. The values the core computes with: bytes, the 4-bit index field, 32-bit columns, 16-byte blocks, 128-bit
port words (00_scope.md R7, R8; 20_memory.md R53). -/

namespace Sys2Proof

/-- An unsigned 8-bit value, also an element of GF(2^8) (R7, R100). -/
abbrev Byte := BitVec 8

/-- A 4-bit field of the command word (R70). -/
abbrev Nibble := BitVec 4

/-- A 128-bit port word: `key_in`, `block_in`, `block_out` (R26). -/
abbrev PortWord := BitVec 128

/-- One column of a block: rows 0 to 3 (R8, R53). -/
structure Column where
  r0 : Byte
  r1 : Byte
  r2 : Byte
  r3 : Byte
deriving DecidableEq, Repr, Inhabited

/-- A 16-byte value (STATE, KEY, a round key, a block): four columns of four bytes, column 0 first, so that
block byte n is row n mod 4 of column n div 4 (R8, R21). -/
structure Block where
  c0 : Column
  c1 : Column
  c2 : Column
  c3 : Column
deriving DecidableEq, Repr, Inhabited

/-- The data registers of one core (R20). -/
inductive DataReg where
  | state               -- STATE
  | key                 -- KEY
  | rk (j : Fin 11)     -- RK[j]
deriving DecidableEq, Repr, Inhabited

end Sys2Proof
end

