-- ==== Sys2Proof/Syntax.lean ====
section
/-! DEFINITION. The commands of the core: one constructor per row of spec/opcode_table.json (30_encoding.md R73). -/

namespace Sys2Proof

/-- A host command (R73). The 128-bit operands are no part of it: they come from the ports (R71). -/
inductive Instr where
  /-- ENC: encrypt block_in under key_in (R194). -/
  | enc
  /-- DEC: decrypt block_in under key_in (R196). -/
  | dec
  /-- LOAD: STATE and KEY from the ports (R193). -/
  | load
  /-- ARK: add KEY to STATE (R130). -/
  | ark
  /-- SUB: S-box on every byte of STATE (R131). -/
  | sub
  /-- SHR: rotate row r of STATE left by r (R132). -/
  | shr
  /-- MIX: mix the columns of STATE (R133). -/
  | mix
  /-- KEXP i: one key-schedule step in place; legal for i in 0..9 (R72, R172). -/
  | kexp (i : Nibble)
  /-- ISUB: inverse S-box on every byte of STATE (R150). -/
  | isub
  /-- ISHR: rotate row r of STATE right by r (R151). -/
  | ishr
  /-- IMIX: inverse mix of the columns of STATE (R152). -/
  | imix
  /-- KSCHED: the whole schedule of KEY into RK (R174). -/
  | ksched
  /-- ARKI j: add RK[j] to STATE; legal for j in 0..10 (R72, R153). -/
  | arki (j : Nibble)
deriving DecidableEq, Repr, Inhabited

end Sys2Proof
end

