-- ==== Sys2Proof/WellFormed.lean ====
section
/-! DEFINITION. Which commands have a legal index (30_encoding.md R72, R75). -/

namespace Sys2Proof

/-- The legal range of the index of a format-I command: 0..9 for KEXP, 0..10 for ARKI (R72). A format-P command has no
index to check. -/
def Instr.wellFormed : Instr → Bool
  | .enc => true
  | .dec => true
  | .load => true
  | .ark => true
  | .sub => true
  | .shr => true
  | .mix => true
  | .kexp i => decide (i.toNat ≤ 9)
  | .isub => true
  | .ishr => true
  | .imix => true
  | .ksched => true
  | .arki j => decide (j.toNat ≤ 10)

/-- `i` is a legal command. -/
abbrev Instr.WellFormed (i : Instr) : Prop := i.wellFormed = true

end Sys2Proof
end

