-- ==== Sys2Proof/Decode.lean ====
section
/-! DEFINITION. Decoding and encoding of the 8-bit command word (30_encoding.md R70 to R75). The decoder is total: a word
is a command or is rejected by a named reason. -/

namespace Sys2Proof

/-- Why a word is illegal (R75). Every one of them raises IllegalCommand when the core accepts the word (R241). -/
inductive IllegalWord where
  | reservedOp (op : Nibble)             -- op is 0x0, 0xE or 0xF
  | nonzeroIndex (op idx : Nibble)       -- a format-P op with idx other than 0
  | kexpIndex (idx : Nibble)             -- KEXP with idx 10..15
  | arkiIndex (idx : Nibble)             -- ARKI with idx 11..15
deriving DecidableEq, Repr

/-- What the decoder answers. -/
inductive Decoded where
  | command (i : Instr)
  | illegal (why : IllegalWord)
deriving DecidableEq, Repr

/-- The operation selector cmd[7:4] (R70). -/
def opField (cmd : BitVec 8) : Nibble := cmd.extractLsb' 4 4

/-- The index field cmd[3:0] (R70). -/
def idxField (cmd : BitVec 8) : Nibble := cmd.extractLsb' 0 4

/-- A format-P op: the command when idx is 0, illegal otherwise (R71). -/
def decodePlain (i : Instr) (op idx : Nibble) : Decoded :=
  if idx = 0 then .command i else .illegal (.nonzeroIndex op idx)

/-- The decoder of R74, on the two fields of the word. -/
def decodeFields (op idx : Nibble) : Decoded :=
  match op.toNat with
  | 0x1 => decodePlain .enc op idx
  | 0x2 => decodePlain .dec op idx
  | 0x3 => decodePlain .load op idx
  | 0x4 => decodePlain .ark op idx
  | 0x5 => decodePlain .sub op idx
  | 0x6 => decodePlain .shr op idx
  | 0x7 => decodePlain .mix op idx
  | 0x8 => if idx.toNat ≤ 9 then .command (.kexp idx) else .illegal (.kexpIndex idx)
  | 0x9 => decodePlain .isub op idx
  | 0xA => decodePlain .ishr op idx
  | 0xB => decodePlain .imix op idx
  | 0xC => decodePlain .ksched op idx
  | 0xD => if idx.toNat ≤ 10 then .command (.arki idx) else .illegal (.arkiIndex idx)
  | _ => .illegal (.reservedOp op)

/-- `decode(cmd[7:0])` of R74: total on all 256 words, reading nothing but the word. -/
def decode (cmd : BitVec 8) : Decoded := decodeFields (opField cmd) (idxField cmd)

/-- The op value of each command (the opcode map of R73). -/
def Instr.opcode : Instr → Nibble
  | .enc => 0x1
  | .dec => 0x2
  | .load => 0x3
  | .ark => 0x4
  | .sub => 0x5
  | .shr => 0x6
  | .mix => 0x7
  | .kexp _ => 0x8
  | .isub => 0x9
  | .ishr => 0xA
  | .imix => 0xB
  | .ksched => 0xC
  | .arki _ => 0xD

/-- The idx field of each command: its index for format I, 0 for format P (R71). -/
def Instr.index : Instr → Nibble
  | .kexp i => i
  | .arki j => j
  | _ => 0

/-- The command word of a command: `op:4 | idx:4` (R70, R73). -/
def encode (i : Instr) : BitVec 8 := i.opcode ++ i.index

/-- The command a decoded word stands for, if it is legal. -/
def Decoded.toOption : Decoded → Option Instr
  | .command i => some i
  | .illegal _ => none

/-- What the decoder reads from an instruction whose bits are `w`, numbered as spec/opcode_table.json numbers them. A
command is one 8-bit word with no operand words (R70), so a number with more bits is no command. -/
def decodeTableWord (nbits w : Nat) : Option Instr :=
  if nbits ≤ 8 ∧ w < 256 then (decode (BitVec.ofNat 8 w)).toOption else none

end Sys2Proof
end

