-- ==== Sys2Proof/Machine/Block.lean ====
section
/-! DEFINITION. Blocks: the two index forms of a 16-byte value, lane-wise and column-wise maps, and the packing of the
128-bit ports (00_scope.md R8, R9; 10_state.md R21; 20_memory.md R52, R53). -/

namespace Sys2Proof

/-- Row `r` of a column; rows are numbered modulo 4. -/
def Column.row (x : Column) (r : Nat) : Byte :=
  match r % 4 with
  | 0 => x.r0
  | 1 => x.r1
  | 2 => x.r2
  | _ => x.r3

/-- Column `c` of a block, `X[*][c]`; columns are numbered modulo 4. -/
def Block.col (x : Block) (c : Nat) : Column :=
  match c % 4 with
  | 0 => x.c0
  | 1 => x.c1
  | 2 => x.c2
  | _ => x.c3

/-- `X[r][c]` (R8). -/
def Block.cell (x : Block) (r c : Nat) : Byte := (x.col c).row r

/-- `X.b[n]`: block byte `n` lies at row n mod 4, column n div 4 (R21). -/
def Block.byte (x : Block) (n : Nat) : Byte := x.cell (n % 4) (n / 4)

/-- The block whose cell (r, c) is `f r c`. -/
def Block.ofCells (f : Nat → Nat → Byte) : Block :=
  ⟨⟨f 0 0, f 1 0, f 2 0, f 3 0⟩, ⟨f 0 1, f 1 1, f 2 1, f 3 1⟩, ⟨f 0 2, f 1 2, f 2 2, f 3 2⟩, ⟨f 0 3, f 1 3, f 2 3, f 3 3⟩⟩

/-- The block whose byte n is `f n`, n = 0..15. -/
def Block.ofBytes (f : Nat → Byte) : Block := Block.ofCells fun r c => f (r + 4 * c)

/-- One function on each row of a column. -/
def Column.map (f : Byte → Byte) (x : Column) : Column := ⟨f x.r0, f x.r1, f x.r2, f x.r3⟩

/-- One function on all 16 lanes. -/
def Block.map (f : Byte → Byte) (x : Block) : Block := ⟨x.c0.map f, x.c1.map f, x.c2.map f, x.c3.map f⟩

/-- One function on each of the four columns. -/
def Block.mapColumns (f : Column → Column) (x : Block) : Block := ⟨f x.c0, f x.c1, f x.c2, f x.c3⟩

/-- Bitwise exclusive-or of two columns (R7). -/
def Column.xor (x y : Column) : Column := ⟨x.r0 ^^^ y.r0, x.r1 ^^^ y.r1, x.r2 ^^^ y.r2, x.r3 ^^^ y.r3⟩

/-- Bitwise exclusive-or of two blocks, lane by lane (R7). -/
def Block.xor (x y : Block) : Block := ⟨x.c0.xor y.c0, x.c1.xor y.c1, x.c2.xor y.c2, x.c3.xor y.c3⟩

/-- The all-zero block. -/
def Block.zero : Block := ⟨⟨0, 0, 0, 0⟩, ⟨0, 0, 0, 0⟩, ⟨0, 0, 0, 0⟩, ⟨0, 0, 0, 0⟩⟩

/-- The 16 bytes in block order, byte 0 first. -/
def Block.bytes (x : Block) : List Byte := (List.range 16).map x.byte

/-- Byte `n` of a port word, counted from the most significant: `w[127-8n : 120-8n]` (R52). -/
def wordByte (w : PortWord) (n : Nat) : Byte := w.extractLsb' (120 - 8 * n) 8

/-- `pack(X)` (R52): block byte 0 in the most significant position. -/
def pack (x : Block) : PortWord :=
  (x.c0.r0 ++ x.c0.r1 ++ x.c0.r2 ++ x.c0.r3 ++ x.c1.r0 ++ x.c1.r1 ++ x.c1.r2 ++ x.c1.r3 ++
    x.c2.r0 ++ x.c2.r1 ++ x.c2.r2 ++ x.c2.r3 ++ x.c3.r0 ++ x.c3.r1 ++ x.c3.r2 ++ x.c3.r3 : BitVec 128)

/-- `unpack(w)` (R52). -/
def unpack (w : PortWord) : Block := Block.ofBytes (wordByte w)

/-- The reference buffer's index of block byte n, `A(n) = 4(n mod 4) + (n div 4)` (R22). No port and no rule of the core
uses it. -/
def referenceIndex (n : Nat) : Nat := 4 * (n % 4) + n / 4

end Sys2Proof
end

