-- ==== Sys2Proof/Machine/State.lean ====
section
/-! DEFINITION. The state of one core (10_state.md R20, R25, R29 to R32, R34), the host's pins (R26), and the reasons a step
can stop. -/

namespace Sys2Proof.Machine

/-- The sequencer's phase (R25). -/
inductive Phase where
  | idle
  | run
deriving DecidableEq, Repr, Inhabited

/-- The levels on the input ports at one rising edge (R26). Every step of the model is one rising edge of clk. -/
structure PortIn where
  rst      : Bool
  cmdValid : Bool
  cmd      : BitVec 8
  keyIn    : PortWord
  blockIn  : PortWord
deriving DecidableEq, Repr, Inhabited

/-- One core instance, and the host's inputs to come. -/
structure State where
  /-- STATE (R21). -/
  state : Block
  /-- KEY (R23). -/
  key : Block
  /-- RK[0..10] (R24). -/
  rk : Vector Block 11
  /-- `phase` (R25). -/
  phase : Phase
  /-- `prog` (R25), held as the command whose microprogram is being run: by R192 the microprogram is a function of the
  command, and no two commands have the same one (log entry 8). -/
  prog : Instr
  /-- `upc`: index in the microprogram of the next micro-operation (R25). -/
  upc : Nat
  /-- `done` (R29). -/
  done : Bool
  /-- `err` (R30). -/
  err : Bool
  /-- Ghost bit wSTATE (R32). -/
  wState : Bool
  /-- Ghost bit wKEY (R32). -/
  wKey : Bool
  /-- Ghost bits wRK[0..10] (R32). -/
  wRk : Vector Bool 11
  /-- MODEL'S OWN (log entry 2): the levels the host drives at the coming edges, the next edge first. -/
  inputs : List PortIn
  /-- MODEL'S OWN (log entry 3): how many reset edges have come, so that an unwritten register reads as a fresh free value
  after each. -/
  epoch : Nat
  /-- The model fault state of R240 and R244 (R191: "the state is faulted"), as a record (log entry 4): the first register
  that a micro-operation read unwritten since the last reset edge, if one did. Nothing else of a step depends on it. -/
  faulted : Option DataReg
deriving DecidableEq, Repr

/-- The state after a reset edge (R34, R270). The spec gives phase, done, err and the ghost bits. The zeros in STATE, KEY
and RK are placeholders (log entry 5): their ghost bits are 0, so no read gives them. `prog` and `upc` are placeholders
too (log entry 6), no fault is recorded, and the model's own fields start as log entries 2 and 3 say. -/
def State.reset : State where
  state := Block.zero
  key := Block.zero
  rk := Vector.replicate 11 Block.zero
  phase := .idle
  prog := .load
  upc := 0
  done := false
  err := false
  wState := false
  wKey := false
  wRk := Vector.replicate 11 false
  inputs := []
  epoch := 0
  faulted := none

/-- Why the machine stops. The hardware never does: its one exception, IllegalCommand, is a next state (R241). -/
inductive Fault where
  /-- A sequencer in RUN whose upc names no micro-operation of its microprogram, or LOAD or an illegal command in RUN. No
  run reaches such a state (R25), and the statement SequencerInvariantKeptByStep says so. Raised by `microStep`. SAFE: it
  stops. -/
  | noMicroOp
deriving DecidableEq, Repr

/-- Why a command has no meaning here. -/
inductive Refusal where
  /-- A command whose meaning is not written: raised by a refused arm of `exec`. There is none. SAFE: it stops. -/
  | notModelled (mnemonic : String)
deriving DecidableEq, Repr

end Sys2Proof.Machine
end

