-- ==== Sys2Proof/Machine/Flags.lean ====
section
/-! DEFINITION. The two status flags, done and err: each way they change (10_state.md R29, R30). -/

namespace Sys2Proof.Machine

/-- A legal command has completed: done is 1 (R29). -/
def State.flagDone (s : State) : State := { s with done := true }

/-- A command with a non-empty microprogram was accepted: done is 0 (R29, R190). -/
def State.flagBusy (s : State) : State := { s with done := false }

/-- An illegal word was accepted: err is 1 and stays so until reset, done is 0 (R30, R241, R242). -/
def State.flagIllegal (s : State) : State := { s with err := true, done := false }

/-- A reset edge: done and err are 0 (R270). -/
def State.flagReset (s : State) : State := { s with err := false, done := false }

end Sys2Proof.Machine
end

