-- ==== Sys2Proof/Machine/KeySchedule.lean ====
section
/-! DEFINITION. The key expansion and the round-key sequence (43_key_schedule.md R170, R171). -/

namespace Sys2Proof.Machine

/-- Steps 1 to 3 of R170: the last column rotated up by one byte, each byte through the S-box, the first exclusive-or
RCON[i]. -/
def scheduleWord (k : Block) (i : Fin 10) : Column where
  r0 := sbox (k.cell 1 3) ^^^ rcon i
  r1 := sbox (k.cell 2 3)
  r2 := sbox (k.cell 3 3)
  r3 := sbox (k.cell 0 3)

/-- `kexp(K, i)` (R170): each new column is the old one exclusive-or the new column to its left, the first exclusive-or the
schedule word. -/
def kexp (k : Block) (i : Fin 10) : Block :=
  let n0 := k.c0.xor (scheduleWord k i)
  let n1 := k.c1.xor n0
  let n2 := k.c2.xor n1
  let n3 := k.c3.xor n2
  ⟨n0, n1, n2, n3⟩

/-- Round key `j` of the cipher key `k` (R171): K0 is the key itself, and `K(r+1) = kexp(Kr, r)`. -/
def roundKey (k : Block) (j : Fin 11) : Block :=
  Fin.induction (motive := fun _ => Block) k (fun r kr => kexp kr r) j

end Sys2Proof.Machine
end

