-- ==== Sys2Proof/Config.lean ====
section
/-! DEFINITION. What an implementation or a host fixes: the free value of an unwritten register, and the two parameters of
the host's codec (00_scope.md R6). -/

namespace Sys2Proof

/-- FREE VALUE (log entry 3): what a data register that no command has written since the last reset reads as, given how
many reset edges the run has seen (10_state.md R32, R34; 70_reset_and_hazards.md R271). It has no body, so a statement
holds whatever the hardware kept or cleared. -/
opaque Config.unspecified : Nat → DataReg → Block

/-- The length policy of `textToState` (45_host_codec.md R228). -/
inductive PadPolicy where
  | truncatePad    -- the default: longer texts are cut at 16 characters
  | rejectLong     -- longer texts are refused with LengthError
deriving DecidableEq, Repr, Inhabited

/-- The host codec's parameters (R6): both are left open by the spec, so every codec function takes them. -/
structure HostConfig where
  padPolicy        : PadPolicy
  hexTrailingSpace : Bool
deriving DecidableEq, Repr

end Sys2Proof
end

