-- ==== Sys2Proof/Machine/Operands.lean ====
section
/-! DEFINITION. Operands: the data registers behind one accessor each for reading and writing, the pins, the port operands
and the output ports (10_state.md R21 to R28, R32; 70_reset_and_hazards.md R276). -/

namespace Sys2Proof.Machine

/-- The levels at the next edge: the head of the host's list, and where it has no more to drive, all low (log entry 2). -/
def State.pins (s : State) : PortIn := s.inputs.headD ⟨false, false, 0, 0, 0⟩

/-- The edge has come: the next sample is at the pins. -/
def State.nextEdge (s : State) : State := { s with inputs := s.inputs.tail }

/-- The ghost bit of a data register (R32). -/
def State.written (s : State) : DataReg → Bool
  | .state => s.wState
  | .key => s.wKey
  | .rk j => s.wRk.get j

/-- The first of the registers `rs` that nothing has written since reset (R244). -/
def State.firstUnwritten (s : State) (rs : List DataReg) : Option DataReg := rs.find? fun r => !s.written r

/-- A read of STATE: what was written, or the free value of a register unwritten since reset (log entry 3). -/
def State.readState (s : State) : Block := if s.wState then s.state else Config.unspecified s.epoch .state

/-- A read of KEY, likewise. -/
def State.readKey (s : State) : Block := if s.wKey then s.key else Config.unspecified s.epoch .key

/-- A read of RK[j], likewise. -/
def State.readRk (s : State) (j : Fin 11) : Block :=
  if s.wRk.get j then s.rk.get j else Config.unspecified s.epoch (.rk j)

/-- `STATE <- v`; the write sets wSTATE (R32). -/
def State.writeState (s : State) (v : Block) : State := { s with state := v, wState := true }

/-- `KEY <- v`; the write sets wKEY (R32). -/
def State.writeKey (s : State) (v : Block) : State := { s with key := v, wKey := true }

/-- `RK[j] <- v`; the write sets wRK[j] (R32). -/
def State.writeRk (s : State) (j : Fin 11) (v : Block) : State :=
  { s with rk := s.rk.set j v, wRk := s.wRk.set j true }

/-- The port operands of LOAD, ENC and DEC, sampled whole at the acceptance edge (R55, R190, R276). -/
def State.loadPorts (s : State) : State :=
  (s.writeState (unpack s.pins.blockIn)).writeKey (unpack s.pins.keyIn)

/-- The index operand of KEXP as a RCON index: none outside 0..9 (R72). -/
def kexpIndex? (i : Nibble) : Option (Fin 10) := if h : i.toNat < 10 then some ⟨i.toNat, h⟩ else none

/-- The index operand of ARKI as a round-key number: none outside 0..10 (R72). -/
def arkiIndex? (j : Nibble) : Option (Fin 11) := if h : j.toNat < 11 then some ⟨j.toNat, h⟩ else none

/-- The output port `block_out`: `pack(STATE)` at all times (R27), any value until the first write after reset (R271). -/
def State.blockOut (s : State) : PortWord := pack s.readState

/-- The output port `cmd_ready` (R28). -/
def State.cmdReady (s : State) : Bool := decide (s.phase = .idle)

end Sys2Proof.Machine
end

