-- ==== Sys2Proof/Machine/Stages.lean ====
section
/-! DEFINITION. The datapath stages as pure maps on blocks (41_forward_stages.md R130 to R133; 42_inverse_stages.md R150 to
R153). Each reads the old block whole and gives the new block whole (00_scope.md R9). -/

namespace Sys2Proof.Machine

/-- AddRoundKey: exclusive-or with a round key, lane by lane (R130, R153). -/
def addRoundKey (x k : Block) : Block := x.xor k

/-- SubBytes (R131). -/
def subBytes (x : Block) : Block := x.map sbox

/-- ShiftRows: `STATE[r][c] <- old[r][(c + r) mod 4]` (R132). -/
def shiftRows (x : Block) : Block := Block.ofCells fun r c => x.cell r ((c + r) % 4)

/-- The column map of MIX (R133). -/
def mixColumn (x : Column) : Column where
  r0 := mul2 x.r0 ^^^ mul3 x.r1 ^^^ x.r2 ^^^ x.r3
  r1 := x.r0 ^^^ mul2 x.r1 ^^^ mul3 x.r2 ^^^ x.r3
  r2 := x.r0 ^^^ x.r1 ^^^ mul2 x.r2 ^^^ mul3 x.r3
  r3 := mul3 x.r0 ^^^ x.r1 ^^^ x.r2 ^^^ mul2 x.r3

/-- MixColumns (R133). -/
def mixColumns (x : Block) : Block := x.mapColumns mixColumn

/-- InvSubBytes (R150). -/
def invSubBytes (x : Block) : Block := x.map invSbox

/-- InvShiftRows: `STATE[r][c] <- old[r][(c - r) mod 4]`, the modulus taken in 0..3 (R151). -/
def invShiftRows (x : Block) : Block := Block.ofCells fun r c => x.cell r ((c + 4 - r) % 4)

/-- The column map of IMIX (R152). -/
def invMixColumn (x : Column) : Column where
  r0 := mul14 x.r0 ^^^ mul11 x.r1 ^^^ mul13 x.r2 ^^^ mul9 x.r3
  r1 := mul9 x.r0 ^^^ mul14 x.r1 ^^^ mul11 x.r2 ^^^ mul13 x.r3
  r2 := mul13 x.r0 ^^^ mul9 x.r1 ^^^ mul14 x.r2 ^^^ mul11 x.r3
  r3 := mul11 x.r0 ^^^ mul13 x.r1 ^^^ mul9 x.r2 ^^^ mul14 x.r3

/-- InvMixColumns (R152). -/
def invMixColumns (x : Block) : Block := x.mapColumns invMixColumn

end Sys2Proof.Machine
end

