-- ==== Sys2Proof/Machine/MicroOp.lean ====
section
/-! DEFINITION. The micro-operations: what each reads, what each does at its edge, and the record of unwritten reads
(41_forward_stages.md, 42_inverse_stages.md, 43_key_schedule.md; 60_exceptions.md R244). -/

namespace Sys2Proof.Machine

/-- A micro-operation (R192). Indices have the type of their legal range: the others are never formed (R51). -/
inductive MicroOp where
  | ark
  | sub
  | shr
  | mix
  | isub
  | ishr
  | imix
  | arki (j : Fin 11)
  | kexp (i : Fin 10)
  | ks (j : Fin 10)
deriving DecidableEq, Repr

/-- The registers a micro-operation reads, in the order of R244. -/
def MicroOp.reads : MicroOp → List DataReg
  | .ark => [.state, .key]
  | .sub => [.state]
  | .shr => [.state]
  | .mix => [.state]
  | .isub => [.state]
  | .ishr => [.state]
  | .imix => [.state]
  | .arki j => [.state, .rk j]
  | .kexp _ => [.key]
  | .ks _ => [.key]

/-- KS j (R173). Every read sees the state `s` before the edge. -/
def scheduleStep (j : Fin 10) (s : State) : State :=
  let next := kexp s.readKey j
  let s0 := if j = 0 then s.writeRk 0 s.readKey else s
  (s0.writeRk j.succ next).writeKey next

/-- The datapath effect of a micro-operation: total on every state (R243). -/
def MicroOp.apply : MicroOp → State → State
  | .ark, s => s.writeState (addRoundKey s.readState s.readKey)              -- R130
  | .sub, s => s.writeState (subBytes s.readState)                           -- R131
  | .shr, s => s.writeState (shiftRows s.readState)                          -- R132
  | .mix, s => s.writeState (mixColumns s.readState)                         -- R133
  | .isub, s => s.writeState (invSubBytes s.readState)                       -- R150
  | .ishr, s => s.writeState (invShiftRows s.readState)                      -- R151
  | .imix, s => s.writeState (invMixColumns s.readState)                     -- R152
  | .arki j, s => s.writeState (addRoundKey s.readState (s.readRk j))        -- R153
  | .kexp i, s => s.writeKey (Machine.kexp s.readKey i)                           -- R172
  | .ks j, s => scheduleStep j s                                             -- R173

/-- The model fault of an unwritten read, recorded (R32, R244, log entry 4): the first one since reset stays. -/
def State.noteUnwritten (s : State) (r : Option DataReg) : State := { s with faulted := s.faulted.or r }

/-- Execute one micro-operation, as the hardware does: it runs whatever its registers hold, and an unwritten read is noted
(R243, R244). -/
def execMicroOp (op : MicroOp) (s : State) : State := (op.apply s).noteUnwritten (s.firstUnwritten op.reads)

/-- Execute a list of micro-operations in order. -/
def execMicroOps : List MicroOp → State → State
  | [], s => s
  | op :: ops, s => execMicroOps ops (execMicroOp op s)

end Sys2Proof.Machine
end

