-- ==== Sys2Proof/Machine/Microprogram.lean ====
section
/-! DEFINITION. The fixed microprogram of each command (44_cipher_commands.md R192, R195, R197; 43_key_schedule.md R174). -/

namespace Sys2Proof.Machine

/-- KS 0, ..., KS 9 (R174). -/
def kschedProg : List MicroOp := (List.finRange 10).map .ks

/-- ENC_PROG, the 50 rows of R195: one line a round. -/
def encProg : List MicroOp :=
  ([.ark,
   .sub, .shr, .mix, .kexp 0, .ark,
   .sub, .shr, .mix, .kexp 1, .ark,
   .sub, .shr, .mix, .kexp 2, .ark,
   .sub, .shr, .mix, .kexp 3, .ark] : List MicroOp) ++
  ([.sub, .shr, .mix, .kexp 4, .ark,
   .sub, .shr, .mix, .kexp 5, .ark,
   .sub, .shr, .mix, .kexp 6, .ark,
   .sub, .shr, .mix, .kexp 7, .ark,
   .sub, .shr, .mix, .kexp 8, .ark,
   .sub, .shr, .kexp 9, .ark] : List MicroOp)

/-- DEC_PROG, the 50 rows of R197: the schedule, then one line a round. -/
def decProg : List MicroOp :=
  ([.ks 0, .ks 1, .ks 2, .ks 3, .ks 4, .ks 5, .ks 6, .ks 7, .ks 8, .ks 9,
   .arki 10, .ishr, .isub,
   .arki 9, .imix, .ishr, .isub,
   .arki 8, .imix, .ishr, .isub,
   .arki 7, .imix, .ishr, .isub,
   .arki 6, .imix, .ishr, .isub] : List MicroOp) ++
  ([.arki 5, .imix, .ishr, .isub,
   .arki 4, .imix, .ishr, .isub,
   .arki 3, .imix, .ishr, .isub,
   .arki 2, .imix, .ishr, .isub,
   .arki 1, .imix, .ishr, .isub,
   .arki 0] : List MicroOp)

/-- The microprogram of each command (R192). An illegal index has none: it never reaches the sequencer (R75). -/
def microprogram : Instr → List MicroOp
  | .enc => encProg
  | .dec => decProg
  | .load => []
  | .ark => [.ark]
  | .sub => [.sub]
  | .shr => [.shr]
  | .mix => [.mix]
  | .kexp i => ((kexpIndex? i).map .kexp).toList
  | .isub => [.isub]
  | .ishr => [.ishr]
  | .imix => [.imix]
  | .ksched => kschedProg
  | .arki j => ((arkiIndex? j).map .arki).toList

/-- `L(prog)` of a command: its latency in edges after the acceptance edge (R192, R281). -/
def latency (i : Instr) : Nat := (microprogram i).length

/-- LOAD, ENC and DEC sample the port operands at acceptance (R190). -/
def loadsPorts : Instr → Bool
  | .enc => true
  | .dec => true
  | .load => true
  | .ark => false
  | .sub => false
  | .shr => false
  | .mix => false
  | .kexp _ => false
  | .isub => false
  | .ishr => false
  | .imix => false
  | .ksched => false
  | .arki _ => false

end Sys2Proof.Machine
end

