-- ==== Sys2Proof/Machine/Ops.lean ====
section
/-! DEFINITION. The sequencer's operations: acceptance, the micro-step, completion, the IllegalCommand exception and the
reset edge (44_cipher_commands.md R190, R191; 60_exceptions.md R241; 70_reset_and_hazards.md R270). -/

namespace Sys2Proof.Machine

/-- Taking the one exception, IllegalCommand (R241): err <- 1, done <- 0 and nothing else. There is no handler, no saved
state and no return from it (R247, R248): the core waits for the next command. -/
def illegalCommand (s : State) : State := s.flagIllegal

/-- A reset edge (R270), whatever the phase: the state after reset (R34). The data registers become unwritten, so each
reads as a fresh free value (R271); the host's inputs are no part of the reset. -/
def resetEdge (s : State) : State :=
  { State.reset.flagReset with inputs := s.inputs, epoch := s.epoch + 1 }

/-- The sequencer starts the microprogram of command `i` (R190). -/
def beginProgram (i : Instr) (s : State) : State := { s with prog := i, upc := 0 }

/-- The command completes: phase <- IDLE, done <- 1 (R191). -/
def completeCommand (s : State) : State := { s.flagDone with phase := .idle }

/-- Acceptance of the legal command `i` (R190): the port operands are sampled if it has any, the sequencer starts, and a
command with an empty microprogram is done at once. -/
def acceptCommand (i : Instr) (s : State) : State :=
  let s1 := beginProgram i (if loadsPorts i then s.loadPorts else s)
  if latency i = 0 then s1.flagDone else { s1.flagBusy with phase := .run }

/-- One micro-step of the microprogram `prog` (R191): the micro-operation at upc, then completion after the last one. -/
def microStep (prog : List MicroOp) (s : State) : Host.Outcome State Fault Refusal :=
  match prog[s.upc]? with
  | none => .fault .noMicroOp
  | some op =>
    .next (if s.upc + 1 = prog.length then completeCommand (execMicroOp op s)
      else { execMicroOp op s with upc := s.upc + 1 })

/-- What command `i` does at a rising edge with rst = 0: its acceptance while the core is IDLE (R190), the next
micro-operation of its microprogram while it runs (R191). -/
def commandEdge (i : Instr) (s : State) : Host.Outcome State Fault Refusal :=
  match s.phase with
  | .idle => .next (acceptCommand i s)
  | .run => microStep (microprogram i) s

end Sys2Proof.Machine
end

