-- ==== Sys2Proof/Machine/CipherCommands.lean ====
section
/-! DEFINITION. The commands that take operands from the ports (44_cipher_commands.md). -/

namespace Sys2Proof.Machine

/-- LOAD (R193): `STATE <- unpack(block_in); KEY <- unpack(key_in)`, complete at its acceptance edge. -/
def execLoad (s : State) : Host.Outcome State Fault Refusal := commandEdge .load s

/-- ENC (R194): the load at acceptance, then the 50 micro-operations of ENC_PROG (R195). -/
def execEnc (s : State) : Host.Outcome State Fault Refusal := commandEdge .enc s

/-- DEC (R196): the load at acceptance, then the 50 micro-operations of DEC_PROG (R197). -/
def execDec (s : State) : Host.Outcome State Fault Refusal := commandEdge .dec s

end Sys2Proof.Machine
end

