-- ==== Sys2Proof/Machine/ForwardStages.lean ====
section
/-! DEFINITION. The commands of the forward datapath stages (41_forward_stages.md). Each is accepted at one edge and does its
stage at the next (44_cipher_commands.md R190, R191). -/

namespace Sys2Proof.Machine

/-- ARK (R130): `STATE <- STATE ⊕ KEY`. -/
def execArk (s : State) : Host.Outcome State Fault Refusal := commandEdge .ark s

/-- SUB (R131): SBOX on every byte of STATE. -/
def execSub (s : State) : Host.Outcome State Fault Refusal := commandEdge .sub s

/-- SHR (R132): row r of STATE rotated left by r. -/
def execShr (s : State) : Host.Outcome State Fault Refusal := commandEdge .shr s

/-- MIX (R133): the column map on every column of STATE. -/
def execMix (s : State) : Host.Outcome State Fault Refusal := commandEdge .mix s

end Sys2Proof.Machine
end

