-- ==== Sys2Proof/Machine/InverseStages.lean ====
section
/-! DEFINITION. The commands of the inverse datapath stages (42_inverse_stages.md). -/

namespace Sys2Proof.Machine

/-- ISUB (R150): INV_SBOX on every byte of STATE. -/
def execIsub (s : State) : Host.Outcome State Fault Refusal := commandEdge .isub s

/-- ISHR (R151): row r of STATE rotated right by r. -/
def execIshr (s : State) : Host.Outcome State Fault Refusal := commandEdge .ishr s

/-- IMIX (R152): the inverse column map on every column of STATE. -/
def execImix (s : State) : Host.Outcome State Fault Refusal := commandEdge .imix s

/-- ARKI j (R153): `STATE <- STATE ⊕ RK[j]`. An index above 10 is an illegal word, which raises IllegalCommand (R75, R241). -/
def execArki (j : Nibble) (s : State) : Host.Outcome State Fault Refusal :=
  if (Instr.arki j).wellFormed then commandEdge (.arki j) s else .next (illegalCommand s)

end Sys2Proof.Machine
end

