-- ==== Sys2Proof/Machine/KeyCommands.lean ====
section
/-! DEFINITION. The key-schedule commands (43_key_schedule.md). -/

namespace Sys2Proof.Machine

/-- KEXP i (R172): `KEY <- kexp(KEY, i)`. An index above 9 is an illegal word, which raises IllegalCommand (R75, R241). -/
def execKexp (i : Nibble) (s : State) : Host.Outcome State Fault Refusal :=
  if (Instr.kexp i).wellFormed then commandEdge (.kexp i) s else .next (illegalCommand s)

/-- KSCHED (R174): KS 0 to KS 9, the whole schedule of KEY into RK. -/
def execKsched (s : State) : Host.Outcome State Fault Refusal := commandEdge .ksched s

end Sys2Proof.Machine
end

