-- ==== Sys2Proof/Machine/Dispatch.lean ====
section
/-! DEFINITION. One rising edge of command `i`: one arm per command, each a direct call of its meaning. -/

namespace Sys2Proof.Machine

def exec (i : Instr) (s : State) : Host.Outcome State Fault Refusal :=
  match i with
  | .enc => Sys2Proof.Machine.execEnc s
  | .dec => Sys2Proof.Machine.execDec s
  | .load => Sys2Proof.Machine.execLoad s
  | .ark => Sys2Proof.Machine.execArk s
  | .sub => Sys2Proof.Machine.execSub s
  | .shr => Sys2Proof.Machine.execShr s
  | .mix => Sys2Proof.Machine.execMix s
  | .kexp n => Sys2Proof.Machine.execKexp n s
  | .isub => Sys2Proof.Machine.execIsub s
  | .ishr => Sys2Proof.Machine.execIshr s
  | .imix => Sys2Proof.Machine.execImix s
  | .ksched => Sys2Proof.Machine.execKsched s
  | .arki j => Sys2Proof.Machine.execArki j s

end Sys2Proof.Machine
end

