-- ==== Sys2Proof/Machine/Edge.lean ====
section
/-! DEFINITION. What happens at a rising edge of clk, in the priority order of 60_exceptions.md R246, and how a command word
is placed at the pins. -/

namespace Sys2Proof.Machine

/-- The core accepts the word `cmd` (R190): the command it decodes to, or IllegalCommand (R241). -/
def acceptWord (cmd : BitVec 8) (s : State) : Host.Outcome State Fault Refusal :=
  match decode cmd with
  | .command i => exec i s
  | .illegal _ => .next (illegalCommand s)

/-- One rising edge, on the levels now at the pins (R246): reset, else the running command's micro-step, else acceptance,
else nothing. -/
def edge (s : State) : Host.Outcome State Fault Refusal :=
  if s.pins.rst then .next (resetEdge s)
  else
    match s.phase with
    | .run => exec s.prog s
    | .idle => if s.pins.cmdValid then acceptWord s.pins.cmd s else .next s

/-- The word that this edge accepts, if it accepts one (R190). -/
def acceptedWord (s : State) : Option (BitVec 8) :=
  if !s.pins.rst && decide (s.phase = .idle) && s.pins.cmdValid then some s.pins.cmd else none

/-- The model fault of this edge (R244): the first unwritten register that its micro-operation reads. A reset edge and an
acceptance read none. -/
def unwrittenFault (s : State) : Option DataReg :=
  if s.pins.rst then none
  else
    match s.phase with
    | .idle => none
    | .run => ((microprogram s.prog)[s.upc]?).bind fun op => s.firstUnwritten op.reads

/-- After the edge the next sample of the host's list is at the pins. -/
def finishEdge : Host.Outcome State Fault Refusal → Host.Outcome State Fault Refusal
  | .next t => .next t.nextEdge
  | .fault f => .fault f
  | .refused r => .refused r

/-- The host presents the word `cmd` at the next edge, with rst = 0, on an IDLE core (R275): the two conditions of
acceptance (R190). The operands at the pins stay. -/
def placeWord (cmd : BitVec 8) (s : State) : State :=
  { s with
    phase := .idle,
    inputs := { s.pins with rst := false, cmdValid := true, cmd := cmd } :: s.inputs.tail }

end Sys2Proof.Machine
end

