-- ==== Sys2Proof/Machine/Step.lean ====
section
/-! DEFINITION. The step: one rising edge of clk (60_exceptions.md R246). -/

namespace Sys2Proof.Machine

/-- One rising edge of clk: everything R246 says happens at it, and the host's next sample comes to the pins. -/
def step (s : State) : Host.Outcome State Fault Refusal := finishEdge (edge s)

/-- `s` with the command word `w` where the next edge accepts it (log entry 12). A command is one word of 8 bits (R70), so
`nbits` above 8 adds nothing. -/
def State.withFetchWord (s : State) (_nbits w : Nat) : State := placeWord (BitVec.ofNat 8 w) s

end Sys2Proof.Machine
end

