-- ==== Sys2Proof/Machine/Codec.lean ====
section
/-! DEFINITION. The host's text and hex codec (45_host_codec.md R220 to R225, R228): host software, no part of the core. A
character is an integer code, and a text is its list of codes (R222). -/

namespace Sys2Proof.Machine

/-- A text: character codes (R222). -/
abbrev Text := List Nat

/-- The codes of a list of characters, to write texts down. -/
def codes (cs : List Char) : Text := cs.map Char.toNat

/-- The host's errors (R240). None reaches the core (R220). -/
inductive HostError where
  | formatError                   -- R225
  | lengthError (len : Nat)       -- R228
  | charRangeError (n : Nat)      -- R222
deriving DecidableEq, Repr

/-- The first position below 16 whose code does not fit in a byte (R222). -/
def firstWideChar (text : Text) : Option Nat := (text.take 16).findIdx? fun c => decide (0xFF < c)

/-- `textToState(text)` (R222, R228): characters beyond 16 are neither read nor checked, missing ones are zero. -/
def textToState (policy : PadPolicy) (text : Text) : Except HostError Block :=
  if policy = .rejectLong ∧ 16 < text.length then .error (.lengthError text.length)
  else
    match firstWideChar text with
    | some n => .error (.charRangeError n)
    | none => .ok (Block.ofBytes fun n => BitVec.ofNat 8 (text.getD n 0))

/-- The code of a lowercase hex digit (R223). -/
def hexDigit (v : Nat) : Nat := if v < 10 then 0x30 + v else 0x61 + (v - 10)

/-- Two lowercase hex digits, high nibble first (R223). -/
def hex2 (b : Byte) : Text := [hexDigit (b.toNat / 16), hexDigit (b.toNat % 16)]

/-- `stateToHex(X)` (R223): 16 tokens in block order separated by one space, with one more at the end if the parameter says
so. -/
def stateToHex (trailingSpace : Bool) (x : Block) : Text :=
  [0x20].intercalate (x.bytes.map hex2) ++ (if trailingSpace then [0x20] else [])

/-- `stateToText(X)` (R224): character n has code X.b[n]; nothing is stripped. -/
def stateToText (x : Block) : Text := x.bytes.map BitVec.toNat

/-- The whitespace set of R225: space, tab, LF, VT, FF, CR. -/
def isWhitespace (c : Nat) : Bool := c == 0x20 || (decide (0x09 ≤ c) && decide (c ≤ 0x0D))

/-- The value of a hex digit of either case (R225). -/
def hexValue (c : Nat) : Option Nat :=
  if 0x30 ≤ c ∧ c ≤ 0x39 then some (c - 0x30)
  else if 0x61 ≤ c ∧ c ≤ 0x66 then some (c - 0x61 + 10)
  else if 0x41 ≤ c ∧ c ≤ 0x46 then some (c - 0x41 + 10)
  else none

/-- The bytes of a list of digit pairs, or none where a character is no hex digit or the digits are odd in number. -/
def hexPairs : Text → Option (List Byte)
  | [] => some []
  | [_] => none
  | hi :: lo :: rest =>
    match hexValue hi, hexValue lo, hexPairs rest with
    | some h, some l, some bs => some (BitVec.ofNat 8 (16 * h + l) :: bs)
    | _, _, _ => none

/-- `hexToState(hexLine)` (R225): whitespace removed anywhere, then exactly 32 hex digits. Every failure is FormatError. -/
def hexToState (hexLine : Text) : Except HostError Block :=
  let h := hexLine.filter fun c => !isWhitespace c
  if h.length = 32 then
    match hexPairs h with
    | some bs => .ok (Block.ofBytes fun n => bs.getD n 0)
    | none => .error .formatError
  else .error .formatError

end Sys2Proof.Machine
end

