-- ==== Sys2Proof/Machine/Command.lean ====
section
/-! DEFINITION. The command level of the spec (00_scope.md R5; 44_cipher_commands.md R200): an accepted command as one atomic
transition. The machine's step is the micro-step level; the two agree, which is a statement (RunReachesTheCommandLevelState). -/

namespace Sys2Proof.Machine

/-- The end of an atomic transition: the whole microprogram of `i` has run, so upc is the index of its last micro-operation,
the core is IDLE and done is 1 (R191, R200). -/
def settleCommand (i : Instr) (s : State) : State :=
  completeCommand { s with prog := i, upc := latency i - 1 }

/-- The atomic transition of a command (R200): the acceptance action of R190, the whole microprogram in order, done = 1. An
illegal command is the transition of R241. -/
def command (i : Instr) (s : State) : State :=
  if i.wellFormed then settleCommand i (execMicroOps (microprogram i) (if loadsPorts i then s.loadPorts else s))
  else illegalCommand s

/-- `n` edges of command `i`, one after another, with rst = 0 throughout. -/
def execEdges (i : Instr) : Nat → State → Host.Outcome State Fault Refusal
  | 0, s => .next s
  | n + 1, s =>
    match exec i s with
    | .next t => execEdges i n t
    | .fault f => .fault f
    | .refused r => .refused r

/-- Several commands one after another, each an atomic transition (R57, R200). -/
def commands : List Instr → State → State
  | [], s => s
  | i :: rest, s => commands rest (command i s)

/-- `n` rising edges of clk, stopping at the first fault. -/
def steps : Nat → State → Host.Outcome State Fault Refusal
  | 0, s => .next s
  | n + 1, s =>
    match step s with
    | .next t => steps n t
    | .fault f => .fault f
    | .refused r => .refused r

end Sys2Proof.Machine
end

