-- ==== Sys2Proof/Machine/HostDriver.lean ====
section
/-! DEFINITION. Host code around the core: driving one command over the handshake, encrypt and decrypt (45_host_codec.md
R220, R226, R227; 70_reset_and_hazards.md R275, R277), and a host program's samples (R283). -/

namespace Sys2Proof.Machine

/-- One command the host wants accepted: the word and the operands at its acceptance edge (R275, R76). -/
structure Request where
  word    : BitVec 8
  keyIn   : PortWord
  blockIn : PortWord
deriving DecidableEq, Repr

/-- The pins with the request presented: cmd_valid = 1, rst = 0 (R275). -/
def Request.present (r : Request) : PortIn := ⟨false, true, r.word, r.keyIn, r.blockIn⟩

/-- The pins with nothing presented: "a host that has nothing to do holds cmd_valid = 0" (R75). -/
def quietPins : PortIn := ⟨false, false, 0, 0, 0⟩

/-- The samples of a host that presents each request at the earliest edge and drops it once accepted: one edge of acceptance
and L quiet edges, L the command's latency, 0 for an illegal word (R275, R281). -/
def Request.samples (r : Request) : List PortIn :=
  r.present :: List.replicate (match decode r.word with | .command i => latency i | .illegal _ => 0) quietPins

/-- A host program as the samples it drives (R283). -/
def programSamples (prog : List Request) : List PortIn := prog.flatMap Request.samples

/-- `s` with a host program to come, from the next edge on. -/
def State.withProgram (s : State) (prog : List Request) : State := { s with inputs := programSamples prog }

/-- Wait with nothing presented while the core is in RUN (R220: the host "never drives the core while the core is in RUN"),
then present the request for the one edge that accepts it (R275), at most `fuel` edges in all. The second component tells
whether it was accepted. -/
def driveUntilAccepted (r : Request) : Nat → State → Host.Outcome (State × Bool) Fault Refusal
  | 0, s => .next (s, false)
  | n + 1, s =>
    match step { s with inputs := [if s.cmdReady then r.present else quietPins] } with
    | .next t => if s.cmdReady then .next (t, true) else driveUntilAccepted r n t
    | .fault f => .fault f
    | .refused e => .refused e

/-- Wait until cmd_ready = 1 and done = 1, at most `fuel` edges (R226, R277). -/
def waitDone : Nat → State → Host.Outcome (State × Bool) Fault Refusal
  | 0, s => .next (s, s.cmdReady && s.done)
  | n + 1, s =>
    if s.cmdReady && s.done then .next (s, true)
    else
      match step { s with inputs := [] } with
      | .next t => waitDone n t
      | .fault f => .fault f
      | .refused e => .refused e

/-- How many edges the host waits for acceptance: more than any command takes (R281, log entry 16). -/
def acceptFuel : Nat := 51

/-- How many edges the host waits for completion: what ENC and DEC take (R281, log entry 16). -/
def doneFuel : Nat := 50

/-- One command driven to its result: the core after it, when it was accepted and has completed (R277); none when the core
stopped or did not get there. -/
def driveCommand (r : Request) (s : State) : Option State :=
  match driveUntilAccepted r acceptFuel s with
  | .next (t, true) =>
    match waitDone doneFuel t with
    | .next (u, true) => some u
    | _ => none
  | _ => none

/-- The ENC request of R226. -/
def encRequest (k p : Block) : Request := ⟨0x10, pack k, pack p⟩

/-- The DEC request of R227. -/
def decRequest (k c : Block) : Request := ⟨0x20, pack k, pack c⟩

/-- `encrypt(keyText, plainText)` (R226) on the core `s`: an error before any command is issued, or the hex text and the
core afterwards. -/
def encrypt (cfg : HostConfig) (keyText plainText : Text) (s : State) : Except HostError (Option (Text × State)) :=
  match textToState cfg.padPolicy keyText with
  | .error e => .error e
  | .ok k =>
    match textToState cfg.padPolicy plainText with
    | .error e => .error e
    | .ok p =>
      .ok ((driveCommand (encRequest k p) s).map fun u => (stateToHex cfg.hexTrailingSpace (unpack u.blockOut), u))

/-- `decrypt(keyText, cipherHex)` (R227): the hex is decoded first, so its FormatError comes before any error of the key
text. -/
def decrypt (cfg : HostConfig) (keyText cipherHex : Text) (s : State) : Except HostError (Option (Text × State)) :=
  match hexToState cipherHex with
  | .error e => .error e
  | .ok c =>
    match textToState cfg.padPolicy keyText with
    | .error e => .error e
    | .ok k => .ok ((driveCommand (decRequest k c) s).map fun u => (stateToText (unpack u.blockOut), u))

end Sys2Proof.Machine
end

