-- ==== Sys2Proof/Machine/Assembler.lean ====
section
/-! DEFINITION. The assembler of the spec's own syntax and its pseudo-instructions (30_encoding.md R76, R77). -/

namespace Sys2Proof.Machine

/-- The operand of a source line: a decimal index, none, or the annotations of a LOAD, ENC or DEC line (R76). -/
structure SourceLine where
  mnemonic : Text
  operands : List Text
deriving DecidableEq, Repr

/-- Why the assembler refuses a line (R76). -/
inductive AsmError where
  | unknownMnemonic      -- not a mnemonic of R73 nor a pseudo-instruction of R77
  | operandNotAllowed    -- an operand on a format-P mnemonic
  | operandMissing       -- a format-I mnemonic or FROUND, IROUND without its index
  | operandNotDecimal    -- an index that is no decimal number
  | indexOutOfRange      -- an index outside the legal range of R72 or R77
  | badAnnotation        -- an annotation that is not key= or block= and 32 hex digits
deriving DecidableEq, Repr

/-- One assembled command: what is encoded, and what the annotations say the host drives (R76). -/
structure AsmCommand where
  instr : Instr
  key   : Option Block
  block : Option Block
deriving DecidableEq, Repr

/-- A command with no annotations. -/
def plainCommand (i : Instr) : AsmCommand := ⟨i, none, none⟩

/-- `FROUND i` (R77). -/
def fround (i : Nibble) : List Instr := [.sub, .shr, .mix, .kexp i, .ark]

/-- `FLAST` (R77). -/
def flast : List Instr := [.sub, .shr, .kexp 9, .ark]

/-- `IFIRST` (R77). -/
def ifirst : List Instr := [.arki 10, .ishr, .isub]

/-- `IROUND j` (R77). -/
def iround (j : Nibble) : List Instr := [.arki j, .imix, .ishr, .isub]

/-- `ILAST` (R77). -/
def ilast : List Instr := [.arki 0]

/-- `ENCSTEPS` (R77). -/
def encsteps : List Instr :=
  .ark :: ([0, 1, 2, 3, 4, 5, 6, 7, 8] : List Nibble).flatMap fround ++ flast

/-- `DECSTEPS` (R77). -/
def decsteps : List Instr :=
  .ksched :: (ifirst ++ ([9, 8, 7, 6, 5, 4, 3, 2, 1] : List Nibble).flatMap iround ++ ilast)

/-- Split a text at every code `p` accepts, keeping the pieces between, empty ones too. -/
def splitAtCodes (p : Nat → Bool) : Text → List Text
  | [] => [[]]
  | c :: cs =>
    match splitAtCodes p cs with
    | [] => [[c]]
    | w :: ws => if p c then [] :: w :: ws else (c :: w) :: ws

/-- A line without its comment (R76). -/
def stripComment (line : Text) : Text := line.takeWhile (· != 0x3B)

/-- The words of a line, separated by white space (log entry 17). -/
def lineWords (line : Text) : List Text := (splitAtCodes isWhitespace (stripComment line)).filter (· ≠ [])

/-- A line as mnemonic and operands, or nothing on a blank or comment line. -/
def parseLine (line : Text) : Option SourceLine :=
  match lineWords line with
  | [] => none
  | m :: ops => some ⟨m, ops⟩

/-- The value of one decimal digit. -/
def decDigit (c : Nat) : Option Nat := if 0x30 ≤ c ∧ c ≤ 0x39 then some (c - 0x30) else none

/-- The value of a decimal number: one digit or more (R76). -/
def decimal (w : Text) : Option Nat :=
  if w = [] then none
  else w.foldl (fun acc c => match acc, decDigit c with | some n, some d => some (10 * n + d) | _, _ => none) (some 0)

/-- The format-P commands that take no annotation, by mnemonic (R73). -/
def plainMnemonics : List (List Char × Instr) :=
  [(['A', 'R', 'K'], .ark), (['S', 'U', 'B'], .sub), (['S', 'H', 'R'], .shr), (['M', 'I', 'X'], .mix),
   (['I', 'S', 'U', 'B'], .isub), (['I', 'S', 'H', 'R'], .ishr), (['I', 'M', 'I', 'X'], .imix),
   (['K', 'S', 'C', 'H', 'E', 'D'], .ksched)]

/-- The commands that may carry annotations, by mnemonic (R76). -/
def annotatedMnemonics : List (List Char × Instr) :=
  [(['L', 'O', 'A', 'D'], .load), (['E', 'N', 'C'], .enc), (['D', 'E', 'C'], .dec)]

/-- The mnemonics and pseudo-instructions with an index: the least and greatest legal index, and the commands (R72, R77). -/
def indexedMnemonics : List (List Char × Nat × Nat × (Nibble → List Instr)) :=
  [(['K', 'E', 'X', 'P'], 0, 9, fun i => [.kexp i]), (['A', 'R', 'K', 'I'], 0, 10, fun j => [.arki j]),
   (['F', 'R', 'O', 'U', 'N', 'D'], 0, 8, fround), (['I', 'R', 'O', 'U', 'N', 'D'], 1, 9, iround)]

/-- The pseudo-instructions without an operand (R77). -/
def pseudoMnemonics : List (List Char × List Instr) :=
  [(['F', 'L', 'A', 'S', 'T'], flast), (['I', 'F', 'I', 'R', 'S', 'T'], ifirst), (['I', 'L', 'A', 'S', 'T'], ilast),
   (['E', 'N', 'C', 'S', 'T', 'E', 'P', 'S'], encsteps), (['D', 'E', 'C', 'S', 'T', 'E', 'P', 'S'], decsteps)]

/-- The entry of a mnemonic table. -/
def findMnemonic {α : Type} (table : List (List Char × α)) (m : Text) : Option α :=
  (table.find? fun e => codes e.1 == m).map (·.2)

/-- 32 hex digits with no white space among them (R76). -/
def annotationValue (w : Text) : Option Block :=
  if w.all (fun c => (hexValue c).isSome) then (hexToState w).toOption else none

/-- The annotations of a line: `key=` and `block=`, each at most once, in any order (R76, log entry 17). -/
def annotate (c : AsmCommand) : List Text → Except AsmError AsmCommand
  | [] => .ok c
  | w :: ws =>
    if codes ['k', 'e', 'y', '='] = w.take 4 ∧ c.key = none then
      match annotationValue (w.drop 4) with
      | some v => annotate { c with key := some v } ws
      | none => .error .badAnnotation
    else if codes ['b', 'l', 'o', 'c', 'k', '='] = w.take 6 ∧ c.block = none then
      match annotationValue (w.drop 6) with
      | some v => annotate { c with block := some v } ws
      | none => .error .badAnnotation
    else .error .badAnnotation

/-- The index operand of a line, within its legal range (R76: "it refuses any index outside the legal range"). -/
def indexOperand (lo hi : Nat) : List Text → Except AsmError Nibble
  | [] => .error .operandMissing
  | [w] =>
    match decimal w with
    | none => .error .operandNotDecimal
    | some n => if lo ≤ n ∧ n ≤ hi then .ok (BitVec.ofNat 4 n) else .error .indexOutOfRange
  | _ :: _ :: _ => .error .operandNotAllowed

/-- The commands with no operand of a line (R76: it refuses "any operand on a format-P mnemonic"). -/
def noOperand (cs : List Instr) (ops : List Text) : Except AsmError (List AsmCommand) :=
  if ops = [] then .ok (cs.map plainCommand) else .error .operandNotAllowed

/-- One source line as the host commands it stands for (R76, R77). -/
def assembleLine (l : SourceLine) : Except AsmError (List AsmCommand) :=
  match findMnemonic annotatedMnemonics l.mnemonic with
  | some i => (annotate (plainCommand i) l.operands).map fun c => [c]
  | none =>
    match findMnemonic indexedMnemonics l.mnemonic with
    | some (lo, hi, f) => (indexOperand lo hi l.operands).map fun i => (f i).map plainCommand
    | none =>
      match findMnemonic plainMnemonics l.mnemonic with
      | some i => noOperand [i] l.operands
      | none =>
        match findMnemonic pseudoMnemonics l.mnemonic with
        | some cs => noOperand cs l.operands
        | none => .error .unknownMnemonic

/-- A source program, line by line: the host commands in order, or the first refusal. -/
def assembleLines : List Text → Except AsmError (List AsmCommand)
  | [] => .ok []
  | line :: rest =>
    match parseLine line with
    | none => assembleLines rest
    | some l =>
      match assembleLine l, assembleLines rest with
      | .ok cs, .ok ds => .ok (cs ++ ds)
      | .error e, _ => .error e
      | _, .error e => .error e

/-- The assembler of R76 on a text whose lines end in LF: "one byte per command, in order". -/
def assemble (source : Text) : Except AsmError (List (BitVec 8)) :=
  (assembleLines (splitAtCodes (· == 0x0A) source)).map fun cs => cs.map fun c => encode c.instr

/-- What the host drives for one assembled command; an operand with no annotation is driven low (log entry 17). -/
def AsmCommand.request (c : AsmCommand) : Request :=
  ⟨encode c.instr, (c.key.map pack).getD 0, (c.block.map pack).getD 0⟩

end Sys2Proof.Machine
end

