-- ==== Sys2Proof/Machine/Cipher.lean ====
section
/-! DEFINITION. The cipher as two functions on blocks (44_cipher_commands.md R198). -/

namespace Sys2Proof.Machine

/-- One main round of AES128_Enc with round key `kr` (R198). -/
def encRound (k : Block) (s : Block) (r : Fin 11) : Block :=
  addRoundKey (mixColumns (shiftRows (subBytes s))) (roundKey k r)

/-- `AES128_Enc(K0, P)` (R198). -/
def aesEnc (k p : Block) : Block :=
  let s := ([1, 2, 3, 4, 5, 6, 7, 8, 9] : List (Fin 11)).foldl (encRound k) (addRoundKey p k)
  addRoundKey (shiftRows (subBytes s)) (roundKey k 10)

/-- One main inverse round of AES128_Dec with round key `r` (R198). -/
def decRound (k : Block) (s : Block) (r : Fin 11) : Block :=
  invSubBytes (invShiftRows (invMixColumns (addRoundKey s (roundKey k r))))

/-- `AES128_Dec(K0, C)` (R198). -/
def aesDec (k c : Block) : Block :=
  let s := invSubBytes (invShiftRows (addRoundKey c (roundKey k 10)))
  addRoundKey (([9, 8, 7, 6, 5, 4, 3, 2, 1] : List (Fin 11)).foldl (decRound k) s) k

end Sys2Proof.Machine
end

