-- ==== Sys2Proof/Machine/Gf.lean ====
section
/-! DEFINITION. GF(2^8) arithmetic and the definitions of the ROM contents (40_gf_tables.md R100 to R107). The datapath reads
the ROMs; these are what the ROMs are said to hold, and Laws/Rom.lean compares the two entry by entry. -/

namespace Sys2Proof.Machine

/-- Multiplication by x modulo x^8 + x^4 + x^3 + x + 1 (R102). -/
def xtime (a : Byte) : Byte := (a <<< 1) ^^^ (if a.getLsbD 7 then 0x1B else 0x00)

/-- One pass of the loop of R103 over bit `k`: `(p, a)` before to `(p, a)` after. -/
def gmulPass (b : Byte) (pa : Byte × Byte) (k : Nat) : Byte × Byte :=
  (if b.getLsbD k then pa.1 ^^^ pa.2 else pa.1, xtime pa.2)

/-- The field product (R103). -/
def gmul (a b : Byte) : Byte := ((List.range 8).foldl (gmulPass b) (0, a)).1

/-- Multiplication by x^2 (R104). -/
def x4 (v : Byte) : Byte := xtime (xtime v)

/-- Multiplication by x^3 (R104). -/
def x8 (v : Byte) : Byte := xtime (x4 v)

/-- `a` squared `n` times. -/
def squarings : Nat → Byte → Byte
  | 0, a => a
  | n + 1, a => squarings n (gmul a a)

/-- The field inverse with 0 mapped to 0 (R105): `a^254`, since every nonzero element has order dividing 255. That this is
the inverse R105 asks for is proved of it (Laws/Rom.lean). -/
def gfInverse (a : Byte) : Byte :=
  ((List.range 7).map fun n => squarings (n + 1) a).foldl gmul 1

/-- The affine map of R105, bit by bit: `b[i] ⊕ b[i+4] ⊕ b[i+5] ⊕ b[i+6] ⊕ b[i+7] ⊕ c[i]`, indices modulo 8, c = 0x63. -/
def affineMap (b : Byte) : Byte :=
  b ^^^ b.rotateRight 4 ^^^ b.rotateRight 5 ^^^ b.rotateRight 6 ^^^ b.rotateRight 7 ^^^ 0x63

/-- The contents R105 defines for SBOX. -/
def sboxFormula (v : Byte) : Byte := affineMap (gfInverse v)

/-- The contents R107 defines for RCON: 0x01, then the doubling of the entry before. -/
def rconFormula : Nat → Byte
  | 0 => 0x01
  | i + 1 => xtime (rconFormula i)

end Sys2Proof.Machine
end

