-- ==== Sys2Proof/Machine/System.lean ====
section
/-! DEFINITION. Several core instances (60_exceptions.md R252; 20_memory.md R61): a list of cores, each with its own state,
sequencer, flags and pins, sharing only the constant ROMs. -/

namespace Sys2Proof.Machine

/-- A system of `N_INST` cores (R6): its length is N_INST. -/
abbrev System := List State

/-- One rising edge of core `k`'s clock. DESIGN CHOICE (log entry 14): the spec gives the model's stops per core and says
nothing of a system's; here a stop of one core (noMicroOp, which no run reaches) is the outcome of the system's edge. A
recorded unwritten read (log entry 4) is core `k`'s own and stops nothing. -/
def System.stepCore (sys : System) (k : Nat) : Host.Outcome System Fault Refusal :=
  match sys[k]? with
  | none => .next sys
  | some s =>
    match step s with
    | .next t => .next (sys.set k t)
    | .fault f => .fault f
    | .refused r => .refused r

/-- The instances interleave freely (R252): the edges of a schedule, in its order. DESIGN CHOICE (log entry 14): a stop of
one core ends the schedule of all. -/
def System.run : List Nat → System → Host.Outcome System Fault Refusal
  | [], sys => .next sys
  | k :: ks, sys =>
    match sys.stepCore k with
    | .next t => System.run ks t
    | .fault f => .fault f
    | .refused r => .refused r

end Sys2Proof.Machine
end

