-- ==== Sys2Proof/Machine/Run.lean ====
section
/-! DEFINITION. The edge as the spec's own model takes it, with its fault Unwritten (60_exceptions.md R244), and the run of a
host program (70_reset_and_hazards.md R283). -/

namespace Sys2Proof.Machine

/-- The edge of R244's model: at an unwritten read the fault, and no state at all, so nothing of the micro-operation
happens; elsewhere what the machine's own step answers. The machine itself goes on, as R244 says the hardware does (log entry
4). -/
def checkedStep (s : State) : Except DataReg (Host.Outcome State Fault Refusal) :=
  match unwrittenFault s with
  | some r => .error r
  | none => .ok (step s)

/-- How a run ends (R283): `cut` at a reset edge, or else by itself; `final` is the state of the observation. -/
structure RunEnd where
  final : State
  cut   : Bool
deriving DecidableEq, Repr

/-- The three conditions of R283 at once: every command of the program has been accepted, the core is IDLE, and the host
presents no further command. -/
def runEnded (left : List (BitVec 8)) (s : State) : Bool :=
  left.isEmpty && decide (s.phase = .idle) && s.inputs.all fun p => !p.cmdValid

/-- The run of a host program from `s` (R283), at most `n` edges: `left` are the words still to be accepted, each once and in
order. The answer is the first end. None where the host's samples present other words than the program's, where `n` edges do
not reach the end, and where a micro-operation reads an unwritten register: such a run has no end. -/
def runToEnd : Nat → List (BitVec 8) → State → Option RunEnd
  | 0, left, s => if runEnded left s then some ⟨s, false⟩ else none
  | n + 1, left, s =>
    if runEnded left s then some ⟨s, false⟩
    else
      match checkedStep s with
      | .ok (.next t) =>
        if s.pins.rst then some ⟨t, true⟩
        else
          match acceptedWord s, left with
          | none, _ => runToEnd n left t
          | some w, w' :: rest => if w = w' then runToEnd n rest t else none
          | some _, [] => none
      | _ => none

end Sys2Proof.Machine
end

