-- ==== Sys2Proof/Safety.lean ====
section
/-! DEFINITION. What a well-formed sequencer, a valid result, and a clean run are (10_state.md R25;
70_reset_and_hazards.md R274, R277, R283). -/

namespace Sys2Proof

open Sys2Proof.Machine

/-- The sequencer is in a state of the spec (R25): in RUN, prog is a legal command's microprogram and upc is the index of
one of its micro-operations. In IDLE, prog and upc hold no meaning. -/
def SequencerOk (s : State) : Prop :=
  s.phase = .run → s.prog.WellFormed ∧ s.upc < latency s.prog

/-- A command is in progress exactly when the core is not ready, and then done is 0 (R28, R29, R277). -/
def BusyMeansNotDone (s : State) : Prop := s.phase = .run → s.done = false

/-- Every field of the sequencer and the flags as the spec lets them stand together. -/
structure Invariant (s : State) : Prop where
  sequencer : SequencerOk s
  busy      : BusyMeansNotDone s

/-- Each of the registers `rs` has been written since reset, so that a read of it is defined (R274). -/
def MayRead (s : State) (rs : List DataReg) : Prop := ∀ r ∈ rs, s.written r = true

/-- The result on block_out is that of the last accepted command (R277). -/
def ResultValid (s : State) : Prop := s.cmdReady = true ∧ s.done = true

/-- A clean run of the program `words` from `s` (R283): within `n` edges it ends in `e`, with err = 0 there. That no fault
Unwritten occurred is part of having an end (`runToEnd`). -/
def CleanRun (n : Nat) (words : List (BitVec 8)) (s : State) (e : RunEnd) : Prop :=
  runToEnd n words s = some e ∧ e.final.err = false

/-- The host holds rst = 0 at the next `n` edges. -/
def NoResetFor (n : Nat) (s : State) : Prop := ∀ p ∈ s.inputs.take n, p.rst = false

end Sys2Proof
end

