-- ==== Sys2Proof/Certificates/Slice0/Obligations.lean ====
section
/-! DEFINITION. The statements about the core, in the order of OBLIGATIONS.json. Where a statement rests on a passage the
spec marks [derived] or [from general knowledge], or on a choice of the model, its docstring says so. `exec i s` is one
rising edge of command `i` with rst = 0: its acceptance while the core is IDLE, a micro-operation while it runs. -/

open Sys2Proof Sys2Proof.Machine

/-! ## Encoding -/

/-- Words written out from the opcode map (R73) and the decode table DV9, illegal neighbours among them. -/
def Obligations.ListedWordsDecodeAsWritten : Prop :=
  decode 0x10 = .command .enc ∧ decode 0x20 = .command .dec ∧ decode 0x30 = .command .load ∧
  decode 0x40 = .command .ark ∧ decode 0x50 = .command .sub ∧ decode 0x60 = .command .shr ∧
  decode 0x70 = .command .mix ∧ decode 0x89 = .command (.kexp 9) ∧ decode 0x90 = .command .isub ∧
  decode 0xA0 = .command .ishr ∧ decode 0xB0 = .command .imix ∧ decode 0xC0 = .command .ksched ∧
  decode 0xDA = .command (.arki 10) ∧ decode 0x00 = .illegal (.reservedOp 0) ∧
  decode 0x51 = .illegal (.nonzeroIndex 5 1) ∧ decode 0x8A = .illegal (.kexpIndex 10) ∧
  decode 0xDB = .illegal (.arkiIndex 11) ∧ decode 0xFF = .illegal (.reservedOp 15)

/-- Every legal command's word decodes to that command (from the opcode map R73 and the decoder R74). -/
def Obligations.DecodeOfEncodeIsTheCommand : Prop :=
  ∀ i : Instr, i.WellFormed → decode (encode i) = .command i

/-- A word that decodes to a command is that command's word, and the command is legal: no two words are one command, and
the indices of KEXP and ARKI are in range (R72 to R74). -/
def Obligations.LegalWordHasOneCommand : Prop :=
  ∀ (w : BitVec 8) (i : Instr), decode w = .command i → i.WellFormed ∧ encode i = w

/-- R75 and R241: the illegal words are op 0x0, 0xE, 0xF with any idx, a format-P op with idx other than 0, KEXP with idx
10..15 and ARKI with idx 11..15, no others. Every one of them, when accepted, raises IllegalCommand: err is set, done is
cleared, nothing else of the core changes, and the core stays ready. -/
def Obligations.IllegalWordsRaiseIllegalCommand : Prop :=
  (∀ w : BitVec 8, (∃ why, decode w = .illegal why) ↔
    (opField w ∈ ([0x0, 0xE, 0xF] : List Nibble) ∨
     (opField w ∈ ([0x1, 0x2, 0x3, 0x4, 0x5, 0x6, 0x7, 0x9, 0xA, 0xB, 0xC] : List Nibble) ∧ idxField w ≠ 0) ∨
     (opField w = 0x8 ∧ 10 ≤ (idxField w).toNat) ∨ (opField w = 0xD ∧ 11 ≤ (idxField w).toNat))) ∧
  ∀ (s : State) (why : IllegalWord), s.pins.rst = false → s.phase = .idle → s.pins.cmdValid = true →
    decode s.pins.cmd = .illegal why →
    ∃ t, step s = .next t ∧ t = { s with err := true, done := false, inputs := s.inputs.tail } ∧ t.cmdReady = true

/-! ## The clock edge -/

/-- A step runs the decoded command: at an edge with rst = 0, on an IDLE core with cmd_valid = 1 and a word that decodes to
`i`, the step is `exec i`, and the host's next sample comes to the pins. -/
def Obligations.StepRunsTheDecodedCommand : Prop :=
  ∀ (s : State) (i : Instr), s.pins.rst = false → s.phase = .idle → s.pins.cmdValid = true →
    decode s.pins.cmd = .command i → step s = finishEdge (exec i s)

/-- R246, the priority at each rising edge: reset, else the running command's micro-step, else acceptance (of a command, or
of an illegal word, which samples no operand), else nothing. -/
def Obligations.EdgePriority : Prop :=
  ∀ s : State,
    (s.pins.rst = true → step s = .next (resetEdge s).nextEdge) ∧
    (s.pins.rst = false → s.phase = .run → step s = finishEdge (exec s.prog s)) ∧
    (s.pins.rst = false → s.phase = .idle → s.pins.cmdValid = true → step s = finishEdge (acceptWord s.pins.cmd s)) ∧
    (s.pins.rst = false → s.phase = .idle → s.pins.cmdValid = true → ∀ why, decode s.pins.cmd = .illegal why →
      step s = .next { s with err := true, done := false, inputs := s.inputs.tail }) ∧
    (s.pins.rst = false → s.phase = .idle → s.pins.cmdValid = false → step s = .next { s with inputs := s.inputs.tail })

/-- R270: an edge with rst = 1 leaves phase = IDLE, done = 0, err = 0 and every ghost bit 0, whatever the phase, cmd_valid,
cmd, key_in and block_in. -/
def Obligations.ResetEdgeClears : Prop :=
  ∀ s : State, s.pins.rst = true →
    (∃ t, step s = .next t ∧ t.phase = .idle ∧ t.done = false ∧ t.err = false ∧ t.wState = false ∧ t.wKey = false ∧
      ∀ j, t.wRk.get j = false) ∧
    ∀ p : PortIn, p.rst = true → step { s with inputs := p :: s.inputs.tail } = step s

/-- R34: the state after reset, and after every reset edge. The data registers are unwritten there; their values and those
of prog and upc are no rule of the spec, and nothing is said of them. -/
def Obligations.StateAfterReset : Prop :=
  ∀ t : State, (t = State.reset ∨ ∃ s : State, s.pins.rst = true ∧ step s = .next t) →
    t.phase = .idle ∧ t.cmdReady = true ∧ t.done = false ∧ t.err = false ∧ t.wState = false ∧ t.wKey = false ∧
    ∀ j, t.wRk.get j = false

/-- R276: cmd is sampled only at an acceptance edge, key_in and block_in only at the acceptance edge of LOAD, ENC or DEC,
and rst at every edge. `p` stands for any other levels at the pins. -/
def Obligations.InputsSampledOnlyAtAcceptance : Prop :=
  (∀ (s : State) (p : PortIn), p.rst = s.pins.rst →
    (s.pins.rst = true ∨ s.phase = .run ∨ (s.pins.cmdValid = false ∧ p.cmdValid = false)) →
    step { s with inputs := p :: s.inputs.tail } = step s) ∧
  (∀ (s : State) (k b : PortWord), (∀ i, decode s.pins.cmd = .command i → i ≠ .load ∧ i ≠ .enc ∧ i ≠ .dec) →
    step { s with inputs := { s.pins with keyIn := k, blockIn := b } :: s.inputs.tail } = step s) ∧
  ∀ s t : State, s.pins.rst = true → step s = .next t → t.phase = .idle ∧ t.done = false ∧ t.err = false

/-- R28 and R27: cmd_ready is phase = IDLE and block_out is pack(STATE), as the wires they are. -/
def Obligations.OutputPortsAreWires : Prop :=
  ∀ s : State, (s.cmdReady = true ↔ s.phase = .idle) ∧ (s.wState = true → s.blockOut = pack s.state)

/-! ## The exception and the flags -/

/-- R242: err stays 1 until a reset edge, and later commands execute exactly as if it were 0. -/
def Obligations.ErrIsStickyAndBlocksNothing : Prop :=
  (∀ s t : State, step s = .next t → s.pins.rst = false → s.err = true → t.err = true) ∧
  (∀ s t : State, step s = .next t →
    step { s with err := true } = .next (if s.pins.rst then t else { t with err := true })) ∧
  (∀ (s : State) (f : Fault), step s = .fault f → step { s with err := true } = .fault f) ∧
  ∀ s t : State, step s = .next t → s.pins.rst = true → t.err = false

/-- R29: done becomes 1 at a completion edge (for LOAD, its acceptance edge), 0 at the acceptance of a command with a
non-empty microprogram, at the acceptance of an illegal word and at reset, and changes in no other way. The premise rules
out sequencer states no run reaches (SequencerInvariantKeptByStep). -/
def Obligations.DoneChangesOnlyAtAcceptanceAndCompletion : Prop :=
  ∀ s t : State, SequencerOk s → step s = .next t →
    t.done =
      if s.pins.rst then false
      else if s.phase = .run then (if s.upc + 1 = latency s.prog then true else s.done)
      else if s.pins.cmdValid then
        (match decode s.pins.cmd with | .command i => decide (latency i = 0) | .illegal _ => false)
      else s.done

/-- R30: err becomes 1 only by the acceptance of an illegal word and 0 only by reset. The premise rules out sequencer states
no run reaches. -/
def Obligations.ErrChangesOnlyByIllegalWordAndReset : Prop :=
  ∀ s t : State, SequencerOk s → step s = .next t →
    (t.err = true ↔ s.pins.rst = false ∧
      (s.err = true ∨ (s.phase = .idle ∧ s.pins.cmdValid = true ∧ ∃ why, decode s.pins.cmd = .illegal why)))

/-! ## Acceptance and the micro-step -/

/-- R190: the core accepts the word at an edge with rst = 0, phase = IDLE and cmd_valid = 1. An illegal word raises
IllegalCommand. A legal one samples the ports if it is LOAD, ENC or DEC, sets prog, sets upc to 0, and either is done at
once (an empty microprogram) or runs; everything else is unchanged. At no other edge does a command start. -/
def Obligations.AcceptanceStartsTheMicroprogram : Prop :=
  (∀ i : Instr, loadsPorts i = true ↔ i = .load ∨ i = .enc ∨ i = .dec) ∧
  (∀ s : State, s.pins.rst = false → s.phase = .idle → s.pins.cmdValid = true →
    step s = .next (match decode s.pins.cmd with
      | .illegal _ => { s with err := true, done := false, inputs := s.inputs.tail }
      | .command i => { s with
          state := if loadsPorts i then unpack s.pins.blockIn else s.state, wState := loadsPorts i || s.wState,
          key := if loadsPorts i then unpack s.pins.keyIn else s.key, wKey := loadsPorts i || s.wKey,
          prog := i, upc := 0, done := decide (latency i = 0),
          phase := if latency i = 0 then .idle else .run, inputs := s.inputs.tail })) ∧
  ∀ s t : State, step s = .next t → ¬(s.pins.rst = false ∧ s.phase = .idle ∧ s.pins.cmdValid = true) →
    t.phase = .run → s.phase = .run ∧ t.prog = s.prog

/-- R193: LOAD writes STATE from block_in and KEY from key_in, completes at its acceptance edge and stays IDLE; RK and
everything else is unchanged. -/
def Obligations.LoadLoadsStateAndKey : Prop :=
  encode .load = 0x30 ∧
  ∀ s : State, s.phase = .idle →
    exec .load s = .next { s with
      state := unpack s.pins.blockIn, wState := true, key := unpack s.pins.keyIn, wKey := true,
      prog := .load, upc := 0, done := true }

/-- A running command (R191) executes the micro-operation at upc, then completes after the last one or moves upc on by
one, whatever else is at the pins. Every command but LOAD runs so. Derived: where the micro-operation reads an unwritten
register R191's model takes no step, which is checkedStep; the machine runs on, on the free value (log entry 3), and has
the fault in faulted (log entry 4), and upc kept at completion is log entry 9. -/
def Obligations.MicroStepExecutesTheOperationAtUpc : Prop :=
  (∀ (i : Instr) (s : State) (op : MicroOp), i.WellFormed → s.phase = .run → (microprogram i)[s.upc]? = some op →
    exec i s = .next (if s.upc + 1 = latency i
      then { op.apply s with phase := .idle, done := true, faulted := s.faulted.or (s.firstUnwritten op.reads) }
      else { op.apply s with upc := s.upc + 1, faulted := s.faulted.or (s.firstUnwritten op.reads) })) ∧
  ∀ s : State, s.pins.rst = false → s.phase = .run →
    step s = finishEdge (exec s.prog s) ∧
    ∀ op r, (microprogram s.prog)[s.upc]? = some op → s.firstUnwritten op.reads = some r → checkedStep s = .error r

/-- Unwritten reads (R244). Each micro-operation reads the registers of the rule's table, in its order. An edge whose
micro-operation reads one that is unwritten raises the model fault naming the first of them, and the rule's model
answers no state (checkedStep). Every other edge is the same in that model and in the machine; an acceptance reads
nothing. Derived: that the machine steps on at such a read, that faulted is set or kept then, and that a reset edge
clears it, is the model's (log entry 4). -/
def Obligations.UnwrittenReadFaultsWhenChecked : Prop :=
  (MicroOp.ark.reads = [.state, .key] ∧
    (∀ op ∈ ([.sub, .shr, .mix, .isub, .ishr, .imix] : List MicroOp), op.reads = [.state]) ∧
    (∀ j, (MicroOp.arki j).reads = [.state, .rk j]) ∧ (∀ i, (MicroOp.kexp i).reads = [.key]) ∧
    ∀ j, (MicroOp.ks j).reads = [.key]) ∧
  (∀ (s : State) (op : MicroOp) (r : DataReg), s.pins.rst = false → s.phase = .run →
    (microprogram s.prog)[s.upc]? = some op → op.reads.find? (fun q => !s.written q) = some r →
    checkedStep s = .error r ∧ ∃ t, step s = .next t ∧ t.faulted = s.faulted.or (some r)) ∧
  (∀ (s : State) (op : MicroOp), s.pins.rst = false → s.phase = .run →
    (microprogram s.prog)[s.upc]? = some op → (∀ q ∈ op.reads, s.written q = true) →
    checkedStep s = .ok (step s) ∧ ∃ t, step s = .next t ∧ t.faulted = s.faulted) ∧
  (∀ s : State, s.pins.rst = false → s.phase = .idle →
    checkedStep s = .ok (step s) ∧ ∃ t, step s = .next t ∧ t.faulted = s.faulted) ∧
  ∀ s : State, s.pins.rst = true → checkedStep s = .ok (step s) ∧ ∃ t, step s = .next t ∧ t.faulted = none

/-- The model's choice (log entry 10): a sequencer in RUN whose upc is past its microprogram stops, for every command. No
run reaches it (SequencerInvariantKeptByStep). -/
def Obligations.RunWithoutMicroOperationStops : Prop :=
  ∀ (i : Instr) (s : State), i.WellFormed → s.phase = .run → latency i ≤ s.upc → exec i s = .fault .noMicroOp

/-- The model's choice (log entry 11): a command term with an illegal index, which no word decodes to, raises the exception
of its word. -/
def Obligations.IllegalIndexRaisesIllegalCommand : Prop :=
  ∀ (i : Nibble) (s : State),
    (9 < i.toNat → exec (.kexp i) s = .next { s with err := true, done := false }) ∧
    (10 < i.toNat → exec (.arki i) s = .next { s with err := true, done := false })

/-- R192: the microprogram of each legal command and its length. -/
def Obligations.MicroprogramsAreTheTable : Prop :=
  microprogram .load = [] ∧ microprogram .ark = [.ark] ∧ microprogram .sub = [.sub] ∧ microprogram .shr = [.shr] ∧
  microprogram .mix = [.mix] ∧ microprogram .isub = [.isub] ∧ microprogram .ishr = [.ishr] ∧
  microprogram .imix = [.imix] ∧ (∀ i : Fin 10, microprogram (.kexp (BitVec.ofNat 4 i)) = [.kexp i]) ∧
  (∀ j : Fin 11, microprogram (.arki (BitVec.ofNat 4 j)) = [.arki j]) ∧
  microprogram .ksched = (List.finRange 10).map .ks ∧ latency .ksched = 10 ∧
  microprogram .enc = encProg ∧ latency .enc = 50 ∧ microprogram .dec = decProg ∧ latency .dec = 50

/-- ENC_PROG is ARK, then SUB, SHR, MIX, KEXP r, ARK for r = 0..8, then SUB, SHR, KEXP 9, ARK; DEC_PROG is KS 0..9, then ARKI
10, ISHR, ISUB, then ARKI j, IMIX, ISHR, ISUB for j = 9 down to 1, then ARKI 0. Derived: R195 and R197 mark their tables
"[derived: the table is the ... sequence written out one stage per line]". -/
def Obligations.CipherProgramsAreTheRounds : Prop :=
  encProg = [.ark] ++ (([0, 1, 2, 3, 4, 5, 6, 7, 8] : List (Fin 10)).map fun r =>
    ([.sub, .shr, .mix, .kexp r, .ark] : List MicroOp)).flatten ++ [.sub, .shr, .kexp 9, .ark] ∧
  decProg = (List.finRange 10).map .ks ++ [.arki 10, .ishr, .isub] ++
    (([9, 8, 7, 6, 5, 4, 3, 2, 1] : List (Fin 11)).map fun j =>
      ([.arki j, .imix, .ishr, .isub] : List MicroOp)).flatten ++ [.arki 0]

/-! ## The stage commands: the micro-operation's edge, and the frame -/

/-- ARK (R130) adds KEY to STATE byte by byte and completes; KEY and everything else is unchanged. Derived: with STATE
or KEY unwritten the rule's model faults, and here the command runs on the free value (log entry 3) and the fault stands
in faulted (log entry 4); upc kept at completion is log entry 9. -/
def Obligations.ArkAddsKeyToState : Prop :=
  encode .ark = 0x40 ∧
  ∀ s : State, s.phase = .run → s.upc = 0 →
    ∃ t, exec .ark s = .next t ∧ (∀ n < 16, t.state.byte n = s.readState.byte n ^^^ s.readKey.byte n) ∧
      t = { s with state := t.state, wState := true, phase := .idle, done := true,
                     faulted := s.faulted.or (s.firstUnwritten [.state, .key]) }

/-- SUB (R131) replaces each byte of STATE by its S-box image and completes; everything else is unchanged. Derived: with
STATE unwritten the rule's model faults, and here the command runs on the free value (log entry 3) and the fault stands
in faulted (log entry 4); upc kept at completion is log entry 9. -/
def Obligations.SubSubstitutesEveryByte : Prop :=
  encode .sub = 0x50 ∧
  ∀ s : State, s.phase = .run → s.upc = 0 →
    ∃ t, exec .sub s = .next t ∧ (∀ n < 16, t.state.byte n = sbox (s.readState.byte n)) ∧
      t = { s with state := t.state, wState := true, phase := .idle, done := true,
                     faulted := s.faulted.or (s.firstUnwritten [.state]) }

/-- SHR (R132) rotates row r of STATE left by r and completes; everything else is unchanged. Derived: with STATE
unwritten the rule's model faults, and here the command runs on the free value (log entry 3) and the fault stands in
faulted (log entry 4); upc kept at completion is log entry 9. -/
def Obligations.ShrRotatesRowsLeft : Prop :=
  encode .shr = 0x60 ∧
  ∀ s : State, s.phase = .run → s.upc = 0 →
    ∃ t, exec .shr s = .next t ∧
      (∀ r < 4, ∀ c < 4, t.state.cell r c = s.readState.cell r ((c + r) % 4)) ∧
      t = { s with state := t.state, wState := true, phase := .idle, done := true,
                     faulted := s.faulted.or (s.firstUnwritten [.state]) }

/-- MIX (R133) replaces each column of STATE by its image under the matrix of the rule and completes; everything else is
unchanged. Derived: with STATE unwritten the rule's model faults, and here the command runs on the free value (log entry
3) and the fault stands in faulted (log entry 4); upc kept at completion is log entry 9. -/
def Obligations.MixCombinesEachColumn : Prop :=
  encode .mix = 0x70 ∧
  ∀ s : State, s.phase = .run → s.upc = 0 →
    ∃ t, exec .mix s = .next t ∧
      (∀ c < 4, ∀ a b x d, a = s.readState.cell 0 c → b = s.readState.cell 1 c → x = s.readState.cell 2 c →
        d = s.readState.cell 3 c →
        t.state.cell 0 c = mul2 a ^^^ mul3 b ^^^ x ^^^ d ∧ t.state.cell 1 c = a ^^^ mul2 b ^^^ mul3 x ^^^ d ∧
        t.state.cell 2 c = a ^^^ b ^^^ mul2 x ^^^ mul3 d ∧ t.state.cell 3 c = mul3 a ^^^ b ^^^ x ^^^ mul2 d) ∧
      t = { s with state := t.state, wState := true, phase := .idle, done := true,
                     faulted := s.faulted.or (s.firstUnwritten [.state]) }

/-- ISUB (R150) replaces each byte of STATE by its inverse S-box image and completes; everything else is unchanged.
Derived: with STATE unwritten the rule's model faults, and here the command runs on the free value (log entry 3) and the
fault stands in faulted (log entry 4); upc kept at completion is log entry 9. -/
def Obligations.IsubSubstitutesEveryByte : Prop :=
  encode .isub = 0x90 ∧
  ∀ s : State, s.phase = .run → s.upc = 0 →
    ∃ t, exec .isub s = .next t ∧ (∀ n < 16, t.state.byte n = invSbox (s.readState.byte n)) ∧
      t = { s with state := t.state, wState := true, phase := .idle, done := true,
                     faulted := s.faulted.or (s.firstUnwritten [.state]) }

/-- ISHR (R151) rotates row r of STATE right by r and completes: the byte of column c goes to column c + r. Everything
else is unchanged. Derived: with STATE unwritten the rule's model faults, and here the command runs on the free value
(log entry 3) and the fault stands in faulted (log entry 4); upc kept at completion is log entry 9. -/
def Obligations.IshrRotatesRowsRight : Prop :=
  encode .ishr = 0xA0 ∧
  ∀ s : State, s.phase = .run → s.upc = 0 →
    ∃ t, exec .ishr s = .next t ∧
      (∀ r < 4, ∀ c < 4, t.state.cell r ((c + r) % 4) = s.readState.cell r c) ∧
      t = { s with state := t.state, wState := true, phase := .idle, done := true,
                     faulted := s.faulted.or (s.firstUnwritten [.state]) }

/-- IMIX (R152) replaces each column of STATE by its image under the inverse matrix and completes; everything else is
unchanged. The rule marks the layout of its matrix "[derived: it is the unique inverse of the MIX matrix ...]". Derived:
with STATE unwritten the rule's model faults, and here the command runs on the free value (log entry 3) and the fault
stands in faulted (log entry 4); upc kept at completion is log entry 9. -/
def Obligations.ImixCombinesEachColumn : Prop :=
  encode .imix = 0xB0 ∧
  ∀ s : State, s.phase = .run → s.upc = 0 →
    ∃ t, exec .imix s = .next t ∧
      (∀ c < 4, ∀ a b x d, a = s.readState.cell 0 c → b = s.readState.cell 1 c → x = s.readState.cell 2 c →
        d = s.readState.cell 3 c →
        t.state.cell 0 c = mul14 a ^^^ mul11 b ^^^ mul13 x ^^^ mul9 d ∧
        t.state.cell 1 c = mul9 a ^^^ mul14 b ^^^ mul11 x ^^^ mul13 d ∧
        t.state.cell 2 c = mul13 a ^^^ mul9 b ^^^ mul14 x ^^^ mul11 d ∧
        t.state.cell 3 c = mul11 a ^^^ mul13 b ^^^ mul9 x ^^^ mul14 d) ∧
      t = { s with state := t.state, wState := true, phase := .idle, done := true,
                     faulted := s.faulted.or (s.firstUnwritten [.state]) }

/-- ARKI j (R153), j in 0..10, adds RK[j] to STATE byte by byte and completes; RK, KEY and everything else is unchanged.
Derived: with STATE or RK[j] unwritten the rule's model faults, and here the command runs on the free value (log entry
3) and the fault stands in faulted (log entry 4); upc kept at completion is log entry 9. -/
def Obligations.ArkiAddsStoredRoundKey : Prop :=
  ∀ (j : Fin 11) (s : State), encode (.arki (BitVec.ofNat 4 j)) = BitVec.ofNat 8 (0xD0 + j) ∧
    (s.phase = .run → s.upc = 0 →
      ∃ t, exec (.arki (BitVec.ofNat 4 j)) s = .next t ∧
        (∀ n < 16, t.state.byte n = s.readState.byte n ^^^ (s.readRk j).byte n) ∧
        t = { s with state := t.state, wState := true, phase := .idle, done := true,
                     faulted := s.faulted.or (s.firstUnwritten [.state, .rk j]) })

/-- KEXP i (R172, with the function of R170), i in 0..9, advances KEY by one round and completes; STATE, RK and
everything else is unchanged. `w r` is the schedule word. Derived: with KEY unwritten the rule's model faults, and here
the command runs on the free value (log entry 3) and the fault stands in faulted (log entry 4); upc kept at completion
is log entry 9. -/
def Obligations.KexpAdvancesKey : Prop :=
  ∀ (i : Fin 10) (s : State), encode (.kexp (BitVec.ofNat 4 i)) = BitVec.ofNat 8 (0x80 + i) ∧
    (s.phase = .run → s.upc = 0 →
      ∃ (t : State) (w : Nat → Byte), exec (.kexp (BitVec.ofNat 4 i)) s = .next t ∧
        w 0 = sbox (s.readKey.byte 13) ^^^ rcon i ∧ w 1 = sbox (s.readKey.byte 14) ∧
        w 2 = sbox (s.readKey.byte 15) ∧ w 3 = sbox (s.readKey.byte 12) ∧
        (∀ r < 4, t.key.cell r 0 = s.readKey.cell r 0 ^^^ w r) ∧
        (∀ r < 4, ∀ c < 3, t.key.cell r (c + 1) = s.readKey.cell r (c + 1) ^^^ t.key.cell r c) ∧
        t = { s with key := t.key, wKey := true, phase := .idle, done := true,
                     faulted := s.faulted.or (s.firstUnwritten [.key]) })

/-- KS j (R173) in the two microprograms that hold it: micro-step j of KSCHED or DEC, j in 0..9, writes KEY and RK[j+1]
with the expansion of the old KEY, and RK[0] with the old KEY when j = 0; it leaves every other RK entry, STATE and the
rest. KSCHED completes after j = 9. Derived: with KEY unwritten the rule's model faults, and here the micro-step runs on
the free value (log entry 3) and the fault stands in faulted (log entry 4); upc kept when KSCHED completes is log entry
9. -/
def Obligations.ScheduleStepExtendsTheSchedule : Prop :=
  ∀ (i : Instr) (j : Fin 10) (s : State), i = .ksched ∨ i = .dec → s.phase = .run → s.upc = j →
    ∃ t, exec i s = .next t ∧ t.key = kexp s.readKey j ∧ t.rk.get j.succ = kexp s.readKey j ∧
      t.wRk.get j.succ = true ∧ (j = 0 → t.rk.get 0 = s.readKey ∧ t.wRk.get 0 = true) ∧
      (∀ m : Fin 11, m ≠ j.succ → ¬(j = 0 ∧ m = 0) → t.rk.get m = s.rk.get m ∧ t.wRk.get m = s.wRk.get m) ∧
      t = { s with
        key := t.key, wKey := true, rk := t.rk, wRk := t.wRk,
        upc := if i = .ksched ∧ j = 9 then s.upc else s.upc + 1,
        phase := if i = .ksched ∧ j = 9 then .idle else .run,
        done := if i = .ksched ∧ j = 9 then true else s.done,
        faulted := s.faulted.or (s.firstUnwritten [.key]) }

/-- The whole KSCHED: 11 edges from its acceptance RK[r] = Kr for r = 0..10, KEY = K10, done = 1, and STATE and the rest
are unchanged. Derived: R174 marks the pseudocode of the whole command "[derived: from rule R173 applied for j = 0..9,
with rule R171]"; with KEY unwritten the command runs on the free value (log entry 3) and the fault is recorded (log
entry 4); upc := 9 is log entry 9. -/
def Obligations.KschedBuildsTheWholeSchedule : Prop :=
  ∀ s : State, s.phase = .idle →
    execEdges .ksched 11 s = .next { s with
      key := roundKey s.readKey 10, wKey := true, rk := Vector.ofFn (roundKey s.readKey),
      wRk := Vector.replicate 11 true, prog := .ksched, upc := 9, done := true,
      faulted := s.faulted.or (s.firstUnwritten [.key]) }

/-! ## The cipher commands -/

/-- ENC at each of its 50 micro-steps executes the operation of ENC_PROG at upc, and reads no unwritten register once STATE
and KEY are written, as its acceptance leaves them (from R191, R195 and R199). -/
def Obligations.EncExecutesEncProg : Prop :=
  ∀ (s : State) (op : MicroOp), s.phase = .run → encProg[s.upc]? = some op → s.wState = true → s.wKey = true →
    exec .enc s = .next (if s.upc = 49 then { op.apply s with phase := .idle, done := true }
      else { op.apply s with upc := s.upc + 1 })

/-- DEC at each of its 50 micro-steps executes the operation of DEC_PROG at upc, and reads no unwritten register once those
its earlier steps write are written (from R191, R197 and R199). -/
def Obligations.DecExecutesDecProg : Prop :=
  ∀ (s : State) (op : MicroOp), s.phase = .run → decProg[s.upc]? = some op → s.wState = true → s.wKey = true →
    (10 ≤ s.upc → ∀ j, s.wRk.get j = true) →
    exec .dec s = .next (if s.upc = 49 then { op.apply s with phase := .idle, done := true }
      else { op.apply s with upc := s.upc + 1 })

/-- The whole ENC: 51 edges from the acceptance of the word 0x10, with rst = 0 and anything else at the pins, STATE is
AES128_Enc of the operands sampled at the acceptance edge, KEY = K10, done = 1, and RK and the rest, the recorded fault among
it, are unchanged (upc := 49 is the model's, log entry 9). Derived: R194 marks the end state "[derived: from rule R195]". -/
def Obligations.EncCommandEncrypts : Prop :=
  ∀ s : State, s.phase = .idle → s.pins.cmdValid = true → s.pins.cmd = 0x10 → NoResetFor 51 s →
    steps 51 s = .next { s with
      state := aesEnc (unpack s.pins.keyIn) (unpack s.pins.blockIn), wState := true,
      key := roundKey (unpack s.pins.keyIn) 10, wKey := true,
      prog := .enc, upc := 49, done := true, inputs := s.inputs.drop 51 }

/-- The whole DEC: 51 edges from the acceptance of the word 0x20, STATE is AES128_Dec of the operands, RK[r] = Kr, KEY = K10,
done = 1, and the rest, the recorded fault among it, is unchanged (upc := 49 is the model's, log entry 9). Derived: R196
marks the end state "[derived: from rule R197 ...]". -/
def Obligations.DecCommandDecrypts : Prop :=
  ∀ s : State, s.phase = .idle → s.pins.cmdValid = true → s.pins.cmd = 0x20 → NoResetFor 51 s →
    steps 51 s = .next { s with
      state := aesDec (unpack s.pins.keyIn) (unpack s.pins.blockIn), wState := true,
      key := roundKey (unpack s.pins.keyIn) 10, wKey := true,
      rk := Vector.ofFn (roundKey (unpack s.pins.keyIn)), wRk := Vector.replicate 11 true,
      prog := .dec, upc := 49, done := true, inputs := s.inputs.drop 51 }

/-- The inverse laws of the stages, and that lane-wise maps commute with the row rotations. Derived: R154 is marked
"[derived: ...]" whole. -/
def Obligations.InverseStagesUndoForwardStages : Prop :=
  ∀ x k : Block,
    invSubBytes (subBytes x) = x ∧ subBytes (invSubBytes x) = x ∧ invShiftRows (shiftRows x) = x ∧
    shiftRows (invShiftRows x) = x ∧ invMixColumns (mixColumns x) = x ∧ mixColumns (invMixColumns x) = x ∧
    addRoundKey (addRoundKey x k) k = x ∧ subBytes (shiftRows x) = shiftRows (subBytes x) ∧
    subBytes (invShiftRows x) = invShiftRows (subBytes x) ∧ invSubBytes (shiftRows x) = shiftRows (invSubBytes x) ∧
    invSubBytes (invShiftRows x) = invShiftRows (invSubBytes x)

/-- The round trip of the cipher, both ways. Derived: R198 marks it "[derived: from 42_inverse_stages.md rule R154 ...]". -/
def Obligations.CipherRoundTrip : Prop :=
  ∀ k x : Block, aesDec k (aesEnc k x) = x ∧ aesEnc k (aesDec k x) = x

/-- ENC and DEC keep nothing of earlier commands: from any two IDLE cores given the same command and operands, neither
reads an unwritten register, and STATE and KEY (for DEC also RK) end equal. Derived: R199 is marked "[derived: from rules
R195 and R197]". -/
def Obligations.CipherIgnoresEarlierState : Prop :=
  ∀ s s' : State, s.phase = .idle → s'.phase = .idle → s.pins = s'.pins → s.pins.cmdValid = true →
    NoResetFor 51 s → NoResetFor 51 s' →
    (s.pins.cmd = 0x10 → ∃ t t', steps 51 s = .next t ∧ steps 51 s' = .next t' ∧
      t.state = t'.state ∧ t.key = t'.key ∧ t.faulted = s.faulted ∧
      t'.faulted = s'.faulted ∧ t.wState = true ∧ t'.wState = true) ∧
    (s.pins.cmd = 0x20 → ∃ t t', steps 51 s = .next t ∧ steps 51 s' = .next t' ∧
      t.state = t'.state ∧ t.key = t'.key ∧ t.rk = t'.rk ∧ t.faulted = s.faulted ∧
      t'.faulted = s'.faulted ∧ t.wState = true ∧ t'.wState = true)

/-! ## The two levels, and timing -/

/-- The command level and the micro-step level agree: from the acceptance of any command, L + 1 edges with rst = 0 reach
exactly the state of the atomic transition (upc = L - 1 in it is the model's, log entry 9). Derived: R200 is marked
"[derived: from rules R190, R191 and R192]". -/
def Obligations.RunReachesTheCommandLevelState : Prop :=
  ∀ (s : State) (i : Instr), s.phase = .idle → s.pins.cmdValid = true → decode s.pins.cmd = .command i →
    NoResetFor (latency i + 1) s →
    steps (latency i + 1) s = .next { command i s with inputs := s.inputs.drop (latency i + 1) }

/-- Fixed time: after the acceptance of command i the core is busy (cmd_ready = 0, done = 0) after edges 1 to L and ready
with done = 1 after edge L + 1 (for LOAD after its acceptance edge), whatever the data. Derived: R282 is marked "[derived:
from rule R281]". -/
def Obligations.BusyForExactlyTheLatency : Prop :=
  ∀ (s : State) (i : Instr) (n : Nat), s.phase = .idle → s.pins.cmdValid = true → decode s.pins.cmd = .command i →
    NoResetFor (latency i + 1) s → 1 ≤ n → n ≤ latency i + 1 →
    ∃ t, steps n s = .next t ∧ t.cmdReady = decide (n = latency i + 1) ∧ t.done = decide (n = latency i + 1)

/-! ## Invariants and whole-machine rules -/

/-- Every step keeps the invariant: in RUN, prog is a legal command, upc is below its length (R25), and done is 0. -/
def Obligations.SequencerInvariantKeptByStep : Prop :=
  ∀ s t : State, Invariant s → step s = .next t → Invariant t

/-- The invariant holds after reset. -/
def Obligations.SequencerInvariantAtReset : Prop := Invariant State.reset

/-- Who writes STATE (R21), as a rule about every step with rst = 0: only the acceptance of LOAD, ENC or DEC and the
micro-steps of commands other than KEXP and KSCHED. The premise rules out sequencer states no run reaches. -/
def Obligations.StateWrittenOnlyByStagesAndLoads : Prop :=
  ∀ s t : State, SequencerOk s → step s = .next t → s.pins.rst = false → t.state ≠ s.state →
    (s.phase = .run ∧ s.prog ≠ .ksched ∧ ∀ i, s.prog ≠ .kexp i) ∨
    (s.phase = .idle ∧ s.pins.cmdValid = true ∧ (decode s.pins.cmd = .command .load ∨
      decode s.pins.cmd = .command .enc ∨ decode s.pins.cmd = .command .dec))

/-- Who writes KEY (R23): only the acceptance of LOAD, ENC or DEC and the micro-steps of KEXP, KSCHED, ENC and DEC. -/
def Obligations.KeyWrittenOnlyByScheduleAndLoads : Prop :=
  ∀ s t : State, SequencerOk s → step s = .next t → s.pins.rst = false → t.key ≠ s.key →
    (s.phase = .run ∧ (s.prog = .ksched ∨ s.prog = .enc ∨ s.prog = .dec ∨ ∃ i, s.prog = .kexp i)) ∨
    (s.phase = .idle ∧ s.pins.cmdValid = true ∧ (decode s.pins.cmd = .command .load ∨
      decode s.pins.cmd = .command .enc ∨ decode s.pins.cmd = .command .dec))

/-- Who writes RK (R24): only the micro-steps of KSCHED and DEC. LOAD, ENC, KEXP and the stage commands leave it, so it can
be stale (R279). -/
def Obligations.RoundKeysWrittenOnlyByKschedAndDec : Prop :=
  ∀ s t : State, SequencerOk s → step s = .next t → s.pins.rst = false → t.rk ≠ s.rk ∨ t.wRk ≠ s.wRk →
    s.phase = .run ∧ (s.prog = .ksched ∨ s.prog = .dec)

/-- The ghost bits (R32): a register whose content a step without reset changes is written after it, and no such step
clears a bit. -/
def Obligations.GhostBitsFollowWrites : Prop :=
  ∀ s t : State, step s = .next t → s.pins.rst = false →
    (∀ r, s.written r = true → t.written r = true) ∧ (t.state ≠ s.state → t.wState = true) ∧
    (t.key ≠ s.key → t.wKey = true) ∧ ∀ j, t.rk.get j ≠ s.rk.get j → t.wRk.get j = true

/-- Several instances (R252): an edge of one core changes no other core, and edges of two cores commute. -/
def Obligations.InstancesShareNothing : Prop :=
  (∀ (sys sys' : System) (k m : Nat), sys.stepCore k = .next sys' → m ≠ k → sys'[m]? = sys[m]?) ∧
  ∀ (sys a b : System) (k m : Nat), k ≠ m → sys.stepCore k = .next a → a.stepCore m = .next b →
    ∃ c, sys.stepCore m = .next c ∧ c.stepCore k = .next b

/-! ## Arithmetic and byte order -/

/-- R52: block byte n is bits 127-8n to 120-8n of the packed word, both ways, and the two are inverse. -/
def Obligations.PortsAreBigEndian : Prop :=
  (∀ (x : Block), ∀ n < 16, (pack x).extractLsb' (120 - 8 * n) 8 = x.byte n) ∧
  (∀ (w : PortWord), ∀ n < 16, (unpack w).byte n = w.extractLsb' (120 - 8 * n) 8) ∧
  ∀ w : PortWord, pack (unpack w) = w

/-- The printed multiplication ROMs hold the field products, and 0 at 0. Derived: R104 marks its equation "[derived: from
rule R103]". -/
def Obligations.MultiplicationRomsHoldProducts : Prop :=
  ∀ v : Byte, mul2 v = gmul v 2 ∧ mul3 v = gmul v 3 ∧ mul9 v = gmul v 9 ∧ mul11 v = gmul v 11 ∧ mul13 v = gmul v 13 ∧
    mul14 v = gmul v 14

/-- The printed S-box is the affine image of the field inverse, INV_SBOX undoes it (R106), and it has no fixed point.
Derived: R105 marks the contents "[from general knowledge, not in source]". -/
def Obligations.SboxIsAffineOfInverse : Prop :=
  ∀ v : Byte, sbox v = affineMap (gfInverse v) ∧ (v ≠ 0 → gmul v (gfInverse v) = 1) ∧ gfInverse 0 = 0 ∧
    invSbox (sbox v) = v ∧ sbox (invSbox v) = v ∧ sbox v ≠ v

/-- R107: RCON starts at 0x01 and each entry is the doubling of the one before. -/
def Obligations.RconDoubles : Prop :=
  rcon 0 = 0x01 ∧ ∀ i : Fin 9, rcon i.succ = xtime (rcon i.castSucc)

/-- R103: the field product distributes over addition, is commutative and associative, has 0 and 1 where they belong, is
the doubling for 2, and every nonzero element has exactly one inverse. Derived: R103 is marked "[derived: from rule R100 and
rule R102]". -/
def Obligations.GmulIsAFieldProduct : Prop :=
  (∀ a b c : Byte, gmul a (b ^^^ c) = gmul a b ^^^ gmul a c) ∧ (∀ a b : Byte, gmul a b = gmul b a) ∧
  (∀ a b c : Byte, gmul (gmul a b) c = gmul a (gmul b c)) ∧ (∀ x : Byte, gmul 0 x = 0 ∧ gmul 1 x = x) ∧
  (∀ a : Byte, gmul a 2 = xtime a) ∧ (∀ a : Byte, a ≠ 0 → ∃! b, gmul a b = 1) ∧
  gmul 0x57 0x83 = 0xc1 ∧ gmul 0x57 0x13 = 0xfe

/-! ## Pseudo-instructions and host code -/

/-- After a LOAD, ENCSTEPS leaves STATE and KEY equal to what one ENC leaves, and reads no unwritten register. Derived: R77
marks it "[derived: from 44_cipher_commands.md rule R200]". -/
def Obligations.EncstepsLeavesWhatEncLeaves : Prop :=
  ∀ s : State,
    (commands (.load :: encsteps) s).state = (command .enc s).state ∧
    (commands (.load :: encsteps) s).key = (command .enc s).key ∧
    (commands (.load :: encsteps) s).wState = true ∧ (commands (.load :: encsteps) s).wKey = true ∧
    (commands (.load :: encsteps) s).rk = s.rk ∧ (commands (.load :: encsteps) s).faulted = s.faulted

/-- After a LOAD, DECSTEPS leaves STATE, KEY and RK equal to what one DEC leaves. Derived, as the statement before. -/
def Obligations.DecstepsLeavesWhatDecLeaves : Prop :=
  ∀ s : State,
    (commands (.load :: decsteps) s).state = (command .dec s).state ∧
    (commands (.load :: decsteps) s).key = (command .dec s).key ∧
    (commands (.load :: decsteps) s).rk = (command .dec s).rk ∧
    (commands (.load :: decsteps) s).wRk = (command .dec s).wRk ∧
    (commands (.load :: decsteps) s).wState = true ∧ (commands (.load :: decsteps) s).wKey = true ∧
    (commands (.load :: decsteps) s).faulted = s.faulted

/-- hexToState reads back what stateToHex writes, with or without the trailing space. Derived: R225 marks it "[derived: from
rules R223 and R225]". -/
def Obligations.HexTextRoundTrip : Prop :=
  ∀ (x : Block) (trailingSpace : Bool), hexToState (stateToHex trailingSpace x) = .ok x ∧
    (stateToHex trailingSpace x).length = if trailingSpace then 48 else 47

/-- R222 with R228: textToState, each outcome: LengthError under reject_long, else CharRangeError at the first position below
16 with a code above 0xFF, else the codes as bytes with zeros after the text's end. -/
def Obligations.TextToStateOutcomes : Prop :=
  ∀ (policy : PadPolicy) (text : Text),
    (policy = .rejectLong → 16 < text.length → textToState policy text = .error (.lengthError text.length)) ∧
    ((policy = .truncatePad ∨ text.length ≤ 16) →
      (∀ n c, n < 16 → text[n]? = some c → 0xFF < c → (∀ m < n, ∀ e, text[m]? = some e → e ≤ 0xFF) →
        textToState policy text = .error (.charRangeError n)) ∧
      ((∀ m < 16, ∀ e, text[m]? = some e → e ≤ 0xFF) →
        ∃ x, textToState policy text = .ok x ∧ ∀ n < 16, (x.byte n).toNat = text.getD n 0))

/-- encrypt on an IDLE core returns the hex text of AES128_Enc of the two texts' blocks (within the host's bounded waits, log
entry 16). Derived: R226 marks the result
"[derived: from rules R194, R222 and R223]". -/
def Obligations.EncryptReturnsTheCiphertext : Prop :=
  ∀ (cfg : HostConfig) (keyText plainText : Text) (k p : Block) (s : State), s.phase = .idle →
    textToState cfg.padPolicy keyText = .ok k → textToState cfg.padPolicy plainText = .ok p →
    ∃ u, encrypt cfg keyText plainText s = .ok (some (stateToHex cfg.hexTrailingSpace (aesEnc k p), u)) ∧
      u.phase = .idle ∧ u.done = true ∧ u.err = s.err

/-- The host-level round trip: decrypting what encrypt returned, on any IDLE cores, gives a 16-character plain text back
(within the host's bounded waits, log entry 16). Derived: R227 marks it "[derived: ...]". -/
def Obligations.DecryptUndoesEncrypt : Prop :=
  ∀ (cfg : HostConfig) (keyText plainText : Text) (k : Block) (s s' : State), s.phase = .idle → s'.phase = .idle →
    textToState cfg.padPolicy keyText = .ok k → plainText.length = 16 → (∀ c ∈ plainText, c ≤ 0xFF) →
    ∃ h u u', encrypt cfg keyText plainText s = .ok (some (h, u)) ∧
      decrypt cfg keyText h s' = .ok (some (plainText, u'))

/-- The end of a run, as the model reads R283 (log entry 20): one word of the program is taken off at each acceptance,
and no further command is presented where no sample to come has cmd_valid = 1. An end that no reset cut is a state in
IDLE with no further command presented; a cut one is that of a reset edge (R270). The program of one legal command,
presented by the samples of log entry 18 on any IDLE core, has its end after exactly L + 1 edges, in the state of the
atomic transition, unless it reads an unwritten register: then it has no end (log entry 4). Derived: the command's state
is R200's, which is marked "[derived: from rules R190, R191 and R192]". -/
def Obligations.RunEndsWhenItsCommandsAreDone : Prop :=
  (∀ (n : Nat) (words : List (BitVec 8)) (s : State) (e : RunEnd), runToEnd n words s = some e →
    (e.cut = false → e.final.phase = .idle ∧ ∀ p ∈ e.final.inputs, p.cmdValid = false) ∧
    (e.cut = true → e.final.phase = .idle ∧ e.final.done = false ∧ e.final.err = false ∧ ∀ r, e.final.written r = false)) ∧
  ∀ (r : Request) (i : Instr) (s : State) (n : Nat), decode r.word = .command i → s.phase = .idle →
    s.inputs = r.samples → s.faulted = none →
    ((command i s).faulted = none →
      runToEnd n [r.word] s =
        if latency i + 1 ≤ n then some ⟨{ command i s with inputs := [] }, false⟩ else none) ∧
    ((command i s).faulted ≠ none → runToEnd n [r.word] s = none)
end

