-- ==== Sys2Proof/Laws/Block.lean ====
section
/-! SUPPORT. The small laws of blocks: what each named map does to a byte, exclusive-or, and port packing. -/

namespace Sys2Proof

/-- A statement about every block byte is sixteen statements. -/
theorem forall_lt_sixteen {p : Nat → Prop} :
    (∀ n < 16, p n) ↔ p 0 ∧ p 1 ∧ p 2 ∧ p 3 ∧ p 4 ∧ p 5 ∧ p 6 ∧ p 7 ∧ p 8 ∧ p 9 ∧ p 10 ∧ p 11 ∧ p 12 ∧ p 13 ∧ p 14 ∧
      p 15 := by
  constructor
  · intro h; refine ⟨?_, ?_, ?_, ?_, ?_, ?_, ?_, ?_, ?_, ?_, ?_, ?_, ?_, ?_, ?_, ?_⟩ <;> exact h _ (by omega)
  · rintro ⟨h0, h1, h2, h3, h4, h5, h6, h7, h8, h9, h10, h11, h12, h13, h14, h15⟩ n hn
    interval_cases n <;> assumption

/-- Two blocks with the same 16 bytes are the same. -/
theorem Block.eq_of_bytes {x y : Block} (h : ∀ n < 16, x.byte n = y.byte n) : x = y := by
  rw [forall_lt_sixteen] at h
  obtain ⟨⟨x0, x1, x2, x3⟩, ⟨x4, x5, x6, x7⟩, ⟨x8, x9, x10, x11⟩, ⟨x12, x13, x14, x15⟩⟩ := x
  obtain ⟨⟨y0, y1, y2, y3⟩, ⟨y4, y5, y6, y7⟩, ⟨y8, y9, y10, y11⟩, ⟨y12, y13, y14, y15⟩⟩ := y
  simpa [Block.byte, Block.cell, Block.col, Column.row, and_assoc] using h

theorem Block.byte_ofBytes (f : Nat → Byte) : ∀ n < 16, (Block.ofBytes f).byte n = f n := by
  rw [forall_lt_sixteen]; exact ⟨rfl, rfl, rfl, rfl, rfl, rfl, rfl, rfl, rfl, rfl, rfl, rfl, rfl, rfl, rfl, rfl⟩

theorem Block.byte_map (f : Byte → Byte) (x : Block) : ∀ n < 16, (x.map f).byte n = f (x.byte n) := by
  rw [forall_lt_sixteen]; exact ⟨rfl, rfl, rfl, rfl, rfl, rfl, rfl, rfl, rfl, rfl, rfl, rfl, rfl, rfl, rfl, rfl⟩

theorem Block.byte_xor (x y : Block) : ∀ n < 16, (x.xor y).byte n = x.byte n ^^^ y.byte n := by
  rw [forall_lt_sixteen]; exact ⟨rfl, rfl, rfl, rfl, rfl, rfl, rfl, rfl, rfl, rfl, rfl, rfl, rfl, rfl, rfl, rfl⟩

theorem Block.cell_ofCells (f : Nat → Nat → Byte) : ∀ r < 4, ∀ c < 4, (Block.ofCells f).cell r c = f r c := by
  intro r hr c hc
  interval_cases r <;> interval_cases c <;> rfl

theorem Block.ofBytes_byte (x : Block) : Block.ofBytes x.byte = x :=
  Block.eq_of_bytes (Block.byte_ofBytes _)

/-- Adding the same value twice changes nothing (R130, R153, R154). -/
@[simp] theorem Block.xor_cancel (x k : Block) : (x.xor k).xor k = x := by
  simp [Block.xor, Column.xor]

theorem Block.xor_comm (x y : Block) : x.xor y = y.xor x := by
  simp [Block.xor, Column.xor, BitVec.xor_comm]

/-- Packing then unpacking gives the block back (R52). -/
@[simp] theorem unpack_pack (x : Block) : unpack (pack x) = x := by
  obtain ⟨⟨x0, x1, x2, x3⟩, ⟨x4, x5, x6, x7⟩, ⟨x8, x9, x10, x11⟩, ⟨x12, x13, x14, x15⟩⟩ := x
  simp only [unpack, Block.ofBytes, Block.ofCells, wordByte, pack, Block.mk.injEq, Column.mk.injEq]
  refine ⟨⟨?_, ?_, ?_, ?_⟩, ⟨?_, ?_, ?_, ?_⟩, ⟨?_, ?_, ?_, ?_⟩, ⟨?_, ?_, ?_, ?_⟩⟩ <;>
    · ext i hi
      simp only [BitVec.getElem_extractLsb', BitVec.getLsbD_append]
      interval_cases i <;> simp

end Sys2Proof
end

