-- ==== Sys2Proof/Laws/State.lean ====
section
/-! SUPPORT. The fields of State after each named update: one lemma per field per update. -/

namespace Sys2Proof.Machine

variable (s : State)

@[simp] theorem State.writeState_state (v : Block) : (s.writeState v).state = v := rfl
@[simp] theorem State.writeState_key (v : Block) : (s.writeState v).key = s.key := rfl
@[simp] theorem State.writeState_rk (v : Block) : (s.writeState v).rk = s.rk := rfl
@[simp] theorem State.writeState_phase (v : Block) : (s.writeState v).phase = s.phase := rfl
@[simp] theorem State.writeState_prog (v : Block) : (s.writeState v).prog = s.prog := rfl
@[simp] theorem State.writeState_upc (v : Block) : (s.writeState v).upc = s.upc := rfl
@[simp] theorem State.writeState_done (v : Block) : (s.writeState v).done = s.done := rfl
@[simp] theorem State.writeState_err (v : Block) : (s.writeState v).err = s.err := rfl
@[simp] theorem State.writeState_wState (v : Block) : (s.writeState v).wState = true := rfl
@[simp] theorem State.writeState_wKey (v : Block) : (s.writeState v).wKey = s.wKey := rfl
@[simp] theorem State.writeState_wRk (v : Block) : (s.writeState v).wRk = s.wRk := rfl
@[simp] theorem State.writeState_inputs (v : Block) : (s.writeState v).inputs = s.inputs := rfl
@[simp] theorem State.writeState_epoch (v : Block) : (s.writeState v).epoch = s.epoch := rfl
@[simp] theorem State.writeState_faulted (v : Block) : (s.writeState v).faulted = s.faulted := rfl

@[simp] theorem State.writeKey_state (v : Block) : (s.writeKey v).state = s.state := rfl
@[simp] theorem State.writeKey_key (v : Block) : (s.writeKey v).key = v := rfl
@[simp] theorem State.writeKey_rk (v : Block) : (s.writeKey v).rk = s.rk := rfl
@[simp] theorem State.writeKey_phase (v : Block) : (s.writeKey v).phase = s.phase := rfl
@[simp] theorem State.writeKey_prog (v : Block) : (s.writeKey v).prog = s.prog := rfl
@[simp] theorem State.writeKey_upc (v : Block) : (s.writeKey v).upc = s.upc := rfl
@[simp] theorem State.writeKey_done (v : Block) : (s.writeKey v).done = s.done := rfl
@[simp] theorem State.writeKey_err (v : Block) : (s.writeKey v).err = s.err := rfl
@[simp] theorem State.writeKey_wState (v : Block) : (s.writeKey v).wState = s.wState := rfl
@[simp] theorem State.writeKey_wKey (v : Block) : (s.writeKey v).wKey = true := rfl
@[simp] theorem State.writeKey_wRk (v : Block) : (s.writeKey v).wRk = s.wRk := rfl
@[simp] theorem State.writeKey_inputs (v : Block) : (s.writeKey v).inputs = s.inputs := rfl
@[simp] theorem State.writeKey_epoch (v : Block) : (s.writeKey v).epoch = s.epoch := rfl
@[simp] theorem State.writeKey_faulted (v : Block) : (s.writeKey v).faulted = s.faulted := rfl

@[simp] theorem State.writeRk_state (j : Fin 11) (v : Block) : (s.writeRk j v).state = s.state := rfl
@[simp] theorem State.writeRk_key (j : Fin 11) (v : Block) : (s.writeRk j v).key = s.key := rfl
@[simp] theorem State.writeRk_rk (j : Fin 11) (v : Block) : (s.writeRk j v).rk = s.rk.set j v := rfl
@[simp] theorem State.writeRk_phase (j : Fin 11) (v : Block) : (s.writeRk j v).phase = s.phase := rfl
@[simp] theorem State.writeRk_prog (j : Fin 11) (v : Block) : (s.writeRk j v).prog = s.prog := rfl
@[simp] theorem State.writeRk_upc (j : Fin 11) (v : Block) : (s.writeRk j v).upc = s.upc := rfl
@[simp] theorem State.writeRk_done (j : Fin 11) (v : Block) : (s.writeRk j v).done = s.done := rfl
@[simp] theorem State.writeRk_err (j : Fin 11) (v : Block) : (s.writeRk j v).err = s.err := rfl
@[simp] theorem State.writeRk_wState (j : Fin 11) (v : Block) : (s.writeRk j v).wState = s.wState := rfl
@[simp] theorem State.writeRk_wKey (j : Fin 11) (v : Block) : (s.writeRk j v).wKey = s.wKey := rfl
@[simp] theorem State.writeRk_wRk (j : Fin 11) (v : Block) : (s.writeRk j v).wRk = s.wRk.set j true := rfl
@[simp] theorem State.writeRk_inputs (j : Fin 11) (v : Block) : (s.writeRk j v).inputs = s.inputs := rfl
@[simp] theorem State.writeRk_epoch (j : Fin 11) (v : Block) : (s.writeRk j v).epoch = s.epoch := rfl
@[simp] theorem State.writeRk_faulted (j : Fin 11) (v : Block) : (s.writeRk j v).faulted = s.faulted := rfl

@[simp] theorem State.nextEdge_state : (s.nextEdge).state = s.state := rfl
@[simp] theorem State.nextEdge_key : (s.nextEdge).key = s.key := rfl
@[simp] theorem State.nextEdge_rk : (s.nextEdge).rk = s.rk := rfl
@[simp] theorem State.nextEdge_phase : (s.nextEdge).phase = s.phase := rfl
@[simp] theorem State.nextEdge_prog : (s.nextEdge).prog = s.prog := rfl
@[simp] theorem State.nextEdge_upc : (s.nextEdge).upc = s.upc := rfl
@[simp] theorem State.nextEdge_done : (s.nextEdge).done = s.done := rfl
@[simp] theorem State.nextEdge_err : (s.nextEdge).err = s.err := rfl
@[simp] theorem State.nextEdge_wState : (s.nextEdge).wState = s.wState := rfl
@[simp] theorem State.nextEdge_wKey : (s.nextEdge).wKey = s.wKey := rfl
@[simp] theorem State.nextEdge_wRk : (s.nextEdge).wRk = s.wRk := rfl
@[simp] theorem State.nextEdge_inputs : (s.nextEdge).inputs = s.inputs.tail := rfl
@[simp] theorem State.nextEdge_epoch : (s.nextEdge).epoch = s.epoch := rfl
@[simp] theorem State.nextEdge_faulted : (s.nextEdge).faulted = s.faulted := rfl

@[simp] theorem State.flagDone_state : (s.flagDone).state = s.state := rfl
@[simp] theorem State.flagDone_key : (s.flagDone).key = s.key := rfl
@[simp] theorem State.flagDone_rk : (s.flagDone).rk = s.rk := rfl
@[simp] theorem State.flagDone_phase : (s.flagDone).phase = s.phase := rfl
@[simp] theorem State.flagDone_prog : (s.flagDone).prog = s.prog := rfl
@[simp] theorem State.flagDone_upc : (s.flagDone).upc = s.upc := rfl
@[simp] theorem State.flagDone_done : (s.flagDone).done = true := rfl
@[simp] theorem State.flagDone_err : (s.flagDone).err = s.err := rfl
@[simp] theorem State.flagDone_wState : (s.flagDone).wState = s.wState := rfl
@[simp] theorem State.flagDone_wKey : (s.flagDone).wKey = s.wKey := rfl
@[simp] theorem State.flagDone_wRk : (s.flagDone).wRk = s.wRk := rfl
@[simp] theorem State.flagDone_inputs : (s.flagDone).inputs = s.inputs := rfl
@[simp] theorem State.flagDone_epoch : (s.flagDone).epoch = s.epoch := rfl
@[simp] theorem State.flagDone_faulted : (s.flagDone).faulted = s.faulted := rfl

@[simp] theorem State.flagBusy_state : (s.flagBusy).state = s.state := rfl
@[simp] theorem State.flagBusy_key : (s.flagBusy).key = s.key := rfl
@[simp] theorem State.flagBusy_rk : (s.flagBusy).rk = s.rk := rfl
@[simp] theorem State.flagBusy_phase : (s.flagBusy).phase = s.phase := rfl
@[simp] theorem State.flagBusy_prog : (s.flagBusy).prog = s.prog := rfl
@[simp] theorem State.flagBusy_upc : (s.flagBusy).upc = s.upc := rfl
@[simp] theorem State.flagBusy_done : (s.flagBusy).done = false := rfl
@[simp] theorem State.flagBusy_err : (s.flagBusy).err = s.err := rfl
@[simp] theorem State.flagBusy_wState : (s.flagBusy).wState = s.wState := rfl
@[simp] theorem State.flagBusy_wKey : (s.flagBusy).wKey = s.wKey := rfl
@[simp] theorem State.flagBusy_wRk : (s.flagBusy).wRk = s.wRk := rfl
@[simp] theorem State.flagBusy_inputs : (s.flagBusy).inputs = s.inputs := rfl
@[simp] theorem State.flagBusy_epoch : (s.flagBusy).epoch = s.epoch := rfl
@[simp] theorem State.flagBusy_faulted : (s.flagBusy).faulted = s.faulted := rfl

@[simp] theorem State.flagIllegal_state : (s.flagIllegal).state = s.state := rfl
@[simp] theorem State.flagIllegal_key : (s.flagIllegal).key = s.key := rfl
@[simp] theorem State.flagIllegal_rk : (s.flagIllegal).rk = s.rk := rfl
@[simp] theorem State.flagIllegal_phase : (s.flagIllegal).phase = s.phase := rfl
@[simp] theorem State.flagIllegal_prog : (s.flagIllegal).prog = s.prog := rfl
@[simp] theorem State.flagIllegal_upc : (s.flagIllegal).upc = s.upc := rfl
@[simp] theorem State.flagIllegal_done : (s.flagIllegal).done = false := rfl
@[simp] theorem State.flagIllegal_err : (s.flagIllegal).err = true := rfl
@[simp] theorem State.flagIllegal_wState : (s.flagIllegal).wState = s.wState := rfl
@[simp] theorem State.flagIllegal_wKey : (s.flagIllegal).wKey = s.wKey := rfl
@[simp] theorem State.flagIllegal_wRk : (s.flagIllegal).wRk = s.wRk := rfl
@[simp] theorem State.flagIllegal_inputs : (s.flagIllegal).inputs = s.inputs := rfl
@[simp] theorem State.flagIllegal_epoch : (s.flagIllegal).epoch = s.epoch := rfl
@[simp] theorem State.flagIllegal_faulted : (s.flagIllegal).faulted = s.faulted := rfl

@[simp] theorem beginProgram_state (i : Instr) : (beginProgram i s).state = s.state := rfl
@[simp] theorem beginProgram_key (i : Instr) : (beginProgram i s).key = s.key := rfl
@[simp] theorem beginProgram_rk (i : Instr) : (beginProgram i s).rk = s.rk := rfl
@[simp] theorem beginProgram_phase (i : Instr) : (beginProgram i s).phase = s.phase := rfl
@[simp] theorem beginProgram_prog (i : Instr) : (beginProgram i s).prog = i := rfl
@[simp] theorem beginProgram_upc (i : Instr) : (beginProgram i s).upc = 0 := rfl
@[simp] theorem beginProgram_done (i : Instr) : (beginProgram i s).done = s.done := rfl
@[simp] theorem beginProgram_err (i : Instr) : (beginProgram i s).err = s.err := rfl
@[simp] theorem beginProgram_wState (i : Instr) : (beginProgram i s).wState = s.wState := rfl
@[simp] theorem beginProgram_wKey (i : Instr) : (beginProgram i s).wKey = s.wKey := rfl
@[simp] theorem beginProgram_wRk (i : Instr) : (beginProgram i s).wRk = s.wRk := rfl
@[simp] theorem beginProgram_inputs (i : Instr) : (beginProgram i s).inputs = s.inputs := rfl
@[simp] theorem beginProgram_epoch (i : Instr) : (beginProgram i s).epoch = s.epoch := rfl
@[simp] theorem beginProgram_faulted (i : Instr) : (beginProgram i s).faulted = s.faulted := rfl

@[simp] theorem completeCommand_state : (completeCommand s).state = s.state := rfl
@[simp] theorem completeCommand_key : (completeCommand s).key = s.key := rfl
@[simp] theorem completeCommand_rk : (completeCommand s).rk = s.rk := rfl
@[simp] theorem completeCommand_phase : (completeCommand s).phase = .idle := rfl
@[simp] theorem completeCommand_prog : (completeCommand s).prog = s.prog := rfl
@[simp] theorem completeCommand_upc : (completeCommand s).upc = s.upc := rfl
@[simp] theorem completeCommand_done : (completeCommand s).done = true := rfl
@[simp] theorem completeCommand_err : (completeCommand s).err = s.err := rfl
@[simp] theorem completeCommand_wState : (completeCommand s).wState = s.wState := rfl
@[simp] theorem completeCommand_wKey : (completeCommand s).wKey = s.wKey := rfl
@[simp] theorem completeCommand_wRk : (completeCommand s).wRk = s.wRk := rfl
@[simp] theorem completeCommand_inputs : (completeCommand s).inputs = s.inputs := rfl
@[simp] theorem completeCommand_epoch : (completeCommand s).epoch = s.epoch := rfl
@[simp] theorem completeCommand_faulted : (completeCommand s).faulted = s.faulted := rfl

@[simp] theorem State.loadPorts_state : (s.loadPorts).state = unpack s.pins.blockIn := rfl
@[simp] theorem State.loadPorts_key : (s.loadPorts).key = unpack s.pins.keyIn := rfl
@[simp] theorem State.loadPorts_rk : (s.loadPorts).rk = s.rk := rfl
@[simp] theorem State.loadPorts_phase : (s.loadPorts).phase = s.phase := rfl
@[simp] theorem State.loadPorts_prog : (s.loadPorts).prog = s.prog := rfl
@[simp] theorem State.loadPorts_upc : (s.loadPorts).upc = s.upc := rfl
@[simp] theorem State.loadPorts_done : (s.loadPorts).done = s.done := rfl
@[simp] theorem State.loadPorts_err : (s.loadPorts).err = s.err := rfl
@[simp] theorem State.loadPorts_wState : (s.loadPorts).wState = true := rfl
@[simp] theorem State.loadPorts_wKey : (s.loadPorts).wKey = true := rfl
@[simp] theorem State.loadPorts_wRk : (s.loadPorts).wRk = s.wRk := rfl
@[simp] theorem State.loadPorts_inputs : (s.loadPorts).inputs = s.inputs := rfl
@[simp] theorem State.loadPorts_epoch : (s.loadPorts).epoch = s.epoch := rfl
@[simp] theorem State.loadPorts_faulted : (s.loadPorts).faulted = s.faulted := rfl

@[simp] theorem State.noteUnwritten_faulted (r : Option DataReg) : (s.noteUnwritten r).faulted = s.faulted.or r := rfl
@[simp] theorem State.noteUnwritten_state (r : Option DataReg) : (s.noteUnwritten r).state = s.state := rfl
@[simp] theorem State.noteUnwritten_key (r : Option DataReg) : (s.noteUnwritten r).key = s.key := rfl
@[simp] theorem State.noteUnwritten_rk (r : Option DataReg) : (s.noteUnwritten r).rk = s.rk := rfl
@[simp] theorem State.noteUnwritten_phase (r : Option DataReg) : (s.noteUnwritten r).phase = s.phase := rfl
@[simp] theorem State.noteUnwritten_prog (r : Option DataReg) : (s.noteUnwritten r).prog = s.prog := rfl
@[simp] theorem State.noteUnwritten_upc (r : Option DataReg) : (s.noteUnwritten r).upc = s.upc := rfl
@[simp] theorem State.noteUnwritten_done (r : Option DataReg) : (s.noteUnwritten r).done = s.done := rfl
@[simp] theorem State.noteUnwritten_err (r : Option DataReg) : (s.noteUnwritten r).err = s.err := rfl
@[simp] theorem State.noteUnwritten_wState (r : Option DataReg) : (s.noteUnwritten r).wState = s.wState := rfl
@[simp] theorem State.noteUnwritten_wKey (r : Option DataReg) : (s.noteUnwritten r).wKey = s.wKey := rfl
@[simp] theorem State.noteUnwritten_wRk (r : Option DataReg) : (s.noteUnwritten r).wRk = s.wRk := rfl
@[simp] theorem State.noteUnwritten_inputs (r : Option DataReg) : (s.noteUnwritten r).inputs = s.inputs := rfl
@[simp] theorem State.noteUnwritten_epoch (r : Option DataReg) : (s.noteUnwritten r).epoch = s.epoch := rfl

end Sys2Proof.Machine
end

