-- ==== Sys2Proof/Laws/Ops.lean ====
section
/-! SUPPORT. What each shared operation of the sequencer can do, said once. -/

namespace Sys2Proof.Machine

/-- Registers that have been written give no fault (R244). -/
theorem firstUnwritten_of_mayRead {s : State} {rs : List DataReg} (h : MayRead s rs) : s.firstUnwritten rs = none := by
  simp only [State.firstUnwritten, List.find?_eq_none]
  intro r hr
  simp [h r hr]

@[simp] theorem State.noteUnwritten_none (s : State) : s.noteUnwritten none = s := by
  simp [State.noteUnwritten]

/-- A micro-operation whose registers have been written records nothing (R244). -/
theorem execMicroOp_of_mayRead {op : MicroOp} {s : State} (h : MayRead s op.reads) : execMicroOp op s = op.apply s := by
  simp [execMicroOp, firstUnwritten_of_mayRead h]

/-- What a legal command does at an edge is `commandEdge`. -/
theorem exec_of_wellFormed {i : Instr} (h : i.WellFormed) (s : State) : exec i s = commandEdge i s := by
  cases i <;> first | rfl | exact if_pos h

/-- An illegal index raises IllegalCommand (R75, R241). -/
theorem exec_of_not_wellFormed {i : Instr} (h : ¬ i.WellFormed) (s : State) : exec i s = .next (illegalCommand s) := by
  cases i <;> first | exact absurd rfl h | exact if_neg h

theorem commandEdge_idle {s : State} (h : s.phase = .idle) (i : Instr) :
    commandEdge i s = .next (acceptCommand i s) := by
  simp [commandEdge, h]

theorem commandEdge_run {s : State} (h : s.phase = .run) (i : Instr) :
    commandEdge i s = microStep (microprogram i) s := by
  simp [commandEdge, h]

/-- A micro-step executes the micro-operation at upc, then completes or moves on (R191). -/
theorem microStep_of_getElem? {prog : List MicroOp} {s : State} {op : MicroOp} (hop : prog[s.upc]? = some op) :
    microStep prog s =
      .next (if s.upc + 1 = prog.length then completeCommand (execMicroOp op s)
        else { execMicroOp op s with upc := s.upc + 1 }) := by
  simp [microStep, hop]

/-- Everything a micro-step that answers a next state did (R191). -/
theorem microStep_next {prog : List MicroOp} {s t : State} (h : microStep prog s = .next t) :
    ∃ op, prog[s.upc]? = some op ∧
      t = if s.upc + 1 = prog.length then completeCommand (execMicroOp op s)
        else { execMicroOp op s with upc := s.upc + 1 } := by
  cases hop : prog[s.upc]? with
  | none => simp [microStep, hop] at h
  | some op => rw [microStep_of_getElem? hop] at h; cases h; exact ⟨op, rfl, rfl⟩

theorem step_of_reset {s : State} (h : s.pins.rst = true) : step s = .next (resetEdge s).nextEdge := by
  simp [step, edge, h, finishEdge]

theorem step_of_run {s : State} (hr : s.pins.rst = false) (hp : s.phase = .run) :
    step s = finishEdge (exec s.prog s) := by
  simp [step, edge, hr, hp]

theorem step_of_accept {s : State} (hr : s.pins.rst = false) (hp : s.phase = .idle) (hv : s.pins.cmdValid = true) :
    step s = finishEdge (acceptWord s.pins.cmd s) := by
  simp [step, edge, hr, hp, hv]

theorem step_of_quiet {s : State} (hr : s.pins.rst = false) (hp : s.phase = .idle) (hv : s.pins.cmdValid = false) :
    step s = .next s.nextEdge := by
  simp [step, edge, hr, hp, hv, finishEdge]

/-- The decoder answers only legal commands (R74, R75). -/
theorem wellFormed_of_decode {cmd : BitVec 8} {i : Instr} (h : decode cmd = .command i) : i.WellFormed := by
  have key : ∀ c : BitVec 8, ∀ i, decode c = .command i → i.WellFormed := by
    intro c i hc
    unfold decode decodeFields decodePlain at hc
    split at hc <;> (try split at hc) <;> cases hc <;> simp_all [Instr.WellFormed, Instr.wellFormed]
  exact key cmd i h

/-- Everything a step that answers a next state did (R246): a reset edge, a micro-step of the running command, the
acceptance of a legal command, the acceptance of an illegal word, or nothing. -/
theorem step_next {s t : State} (h : step s = .next t) :
    (s.pins.rst = true ∧ t = (resetEdge s).nextEdge) ∨
    (s.pins.rst = false ∧ s.phase = .run ∧ ∃ u, exec s.prog s = .next u ∧ t = u.nextEdge) ∨
    (s.pins.rst = false ∧ s.phase = .idle ∧ s.pins.cmdValid = true ∧
      ∃ i, i.WellFormed ∧ decode s.pins.cmd = .command i ∧ t = (acceptCommand i s).nextEdge) ∨
    (s.pins.rst = false ∧ s.phase = .idle ∧ s.pins.cmdValid = true ∧
      (∃ why, decode s.pins.cmd = .illegal why) ∧ t = (illegalCommand s).nextEdge) ∨
    (s.pins.rst = false ∧ s.phase = .idle ∧ s.pins.cmdValid = false ∧ t = s.nextEdge) := by
  cases hr : s.pins.rst with
  | true => rw [step_of_reset hr] at h; cases h; exact .inl ⟨rfl, rfl⟩
  | false =>
    cases hp : s.phase with
    | run =>
      rw [step_of_run hr hp] at h
      refine .inr (.inl ⟨rfl, rfl, ?_⟩)
      cases hx : exec s.prog s with
      | next u => rw [hx] at h; cases h; exact ⟨u, rfl, rfl⟩
      | fault f => rw [hx] at h; cases h
      | refused r => rw [hx] at h; cases h
    | idle =>
      cases hv : s.pins.cmdValid with
      | false => rw [step_of_quiet hr hp hv] at h; cases h; simp
      | true =>
        rw [step_of_accept hr hp hv] at h
        unfold acceptWord at h
        cases hd : decode s.pins.cmd with
        | illegal why => rw [hd] at h; cases h; simp
        | command i =>
          have hw := wellFormed_of_decode hd
          simp only [hd, exec_of_wellFormed hw, commandEdge_idle hp] at h
          cases h
          exact .inr (.inr (.inl ⟨rfl, rfl, rfl, i, hw, rfl, rfl⟩))

end Sys2Proof.Machine
end

