-- ==== Sys2Proof/Laws/Frames.lean ====
section
/-! SUPPORT. The frame of every micro-operation: what it leaves unchanged, and that it reads nothing but the data registers. -/

namespace Sys2Proof.Machine

variable (s : State)

@[simp] theorem scheduleStep_phase (j : Fin 10) : (scheduleStep j s).phase = s.phase := by
  unfold scheduleStep; split <;> rfl
@[simp] theorem scheduleStep_prog (j : Fin 10) : (scheduleStep j s).prog = s.prog := by
  unfold scheduleStep; split <;> rfl
@[simp] theorem scheduleStep_upc (j : Fin 10) : (scheduleStep j s).upc = s.upc := by
  unfold scheduleStep; split <;> rfl
@[simp] theorem scheduleStep_done (j : Fin 10) : (scheduleStep j s).done = s.done := by
  unfold scheduleStep; split <;> rfl
@[simp] theorem scheduleStep_err (j : Fin 10) : (scheduleStep j s).err = s.err := by
  unfold scheduleStep; split <;> rfl
@[simp] theorem scheduleStep_state (j : Fin 10) : (scheduleStep j s).state = s.state := by
  unfold scheduleStep; split <;> rfl
@[simp] theorem scheduleStep_wState (j : Fin 10) : (scheduleStep j s).wState = s.wState := by
  unfold scheduleStep; split <;> rfl
@[simp] theorem scheduleStep_key (j : Fin 10) : (scheduleStep j s).key = kexp s.readKey j := rfl
@[simp] theorem scheduleStep_wKey (j : Fin 10) : (scheduleStep j s).wKey = true := rfl
@[simp] theorem scheduleStep_inputs (j : Fin 10) : (scheduleStep j s).inputs = s.inputs := by
  unfold scheduleStep; split <;> rfl
@[simp] theorem scheduleStep_epoch (j : Fin 10) : (scheduleStep j s).epoch = s.epoch := by
  unfold scheduleStep; split <;> rfl
@[simp] theorem scheduleStep_faulted (j : Fin 10) : (scheduleStep j s).faulted = s.faulted := by
  unfold scheduleStep; split <;> rfl

/-- RK after KS j: RK[j+1] and, for j = 0, RK[0] (R173). -/
theorem scheduleStep_rk (j : Fin 10) :
    (scheduleStep j s).rk =
      (if j = 0 then s.rk.set (0 : Fin 11) s.readKey else s.rk).set j.succ (kexp s.readKey j) := by
  unfold scheduleStep; split <;> rfl

theorem scheduleStep_wRk (j : Fin 10) :
    (scheduleStep j s).wRk = (if j = 0 then s.wRk.set (0 : Fin 11) true else s.wRk).set j.succ true := by
  unfold scheduleStep; split <;> rfl

variable (op : MicroOp)

@[simp] theorem MicroOp.apply_phase : (op.apply s).phase = s.phase := by cases op <;> simp [MicroOp.apply]
@[simp] theorem MicroOp.apply_prog : (op.apply s).prog = s.prog := by cases op <;> simp [MicroOp.apply]
@[simp] theorem MicroOp.apply_upc : (op.apply s).upc = s.upc := by cases op <;> simp [MicroOp.apply]
@[simp] theorem MicroOp.apply_done : (op.apply s).done = s.done := by cases op <;> simp [MicroOp.apply]
@[simp] theorem MicroOp.apply_err : (op.apply s).err = s.err := by cases op <;> simp [MicroOp.apply]
@[simp] theorem MicroOp.apply_inputs : (op.apply s).inputs = s.inputs := by cases op <;> simp [MicroOp.apply]
@[simp] theorem MicroOp.apply_epoch : (op.apply s).epoch = s.epoch := by cases op <;> simp [MicroOp.apply]
@[simp] theorem MicroOp.apply_faulted : (op.apply s).faulted = s.faulted := by
  cases op <;> simp [MicroOp.apply]

/-- A micro-operation reads no sequencer field, no flag and no pin: with others of those, it gives the same registers. -/
theorem MicroOp.apply_withControl (ph : Phase) (pr : Instr) (u : Nat) (d e : Bool) (ins : List PortIn) :
    op.apply { s with phase := ph, prog := pr, upc := u, done := d, err := e, inputs := ins } =
      { op.apply s with phase := ph, prog := pr, upc := u, done := d, err := e, inputs := ins } := by
  cases op <;> try rfl
  simp only [MicroOp.apply, scheduleStep]; split <;> rfl

/-- Nor does the record of its unwritten reads (R244). -/
theorem execMicroOp_withControl (ph : Phase) (pr : Instr) (u : Nat) (d e : Bool) (ins : List PortIn) :
    execMicroOp op { s with phase := ph, prog := pr, upc := u, done := d, err := e, inputs := ins } =
      { execMicroOp op s with phase := ph, prog := pr, upc := u, done := d, err := e, inputs := ins } := by
  have h : ∀ r, State.written { s with phase := ph, prog := pr, upc := u, done := d, err := e, inputs := ins } r =
      s.written r := by intro r; cases r <;> rfl
  simp only [execMicroOp, MicroOp.apply_withControl, State.firstUnwritten, h]
  rfl

@[simp] theorem execMicroOp_phase : (execMicroOp op s).phase = s.phase := by simp [execMicroOp]
@[simp] theorem execMicroOp_prog : (execMicroOp op s).prog = s.prog := by simp [execMicroOp]
@[simp] theorem execMicroOp_upc : (execMicroOp op s).upc = s.upc := by simp [execMicroOp]
@[simp] theorem execMicroOp_done : (execMicroOp op s).done = s.done := by simp [execMicroOp]
@[simp] theorem execMicroOp_err : (execMicroOp op s).err = s.err := by simp [execMicroOp]
@[simp] theorem execMicroOp_inputs : (execMicroOp op s).inputs = s.inputs := by simp [execMicroOp]
@[simp] theorem execMicroOp_epoch : (execMicroOp op s).epoch = s.epoch := by simp [execMicroOp]
@[simp] theorem execMicroOp_faulted :
    (execMicroOp op s).faulted = s.faulted.or (s.firstUnwritten op.reads) := by simp [execMicroOp]

/-- A list of micro-operations reads no sequencer field, no flag and no pin. -/
theorem execMicroOps_withControl (ops : List MicroOp) (s : State) (ph : Phase) (pr : Instr) (u : Nat) (d e : Bool)
    (ins : List PortIn) :
    execMicroOps ops { s with phase := ph, prog := pr, upc := u, done := d, err := e, inputs := ins } =
      { execMicroOps ops s with phase := ph, prog := pr, upc := u, done := d, err := e, inputs := ins } := by
  induction ops generalizing s with
  | nil => rfl
  | cons op ops ih => simp only [execMicroOps, execMicroOp_withControl, ih]

/-- What a list of micro-operations leaves unchanged. -/
theorem execMicroOps_frame (ops : List MicroOp) (s : State) :
    (execMicroOps ops s).phase = s.phase ∧ (execMicroOps ops s).prog = s.prog ∧ (execMicroOps ops s).upc = s.upc ∧
      (execMicroOps ops s).done = s.done ∧ (execMicroOps ops s).err = s.err ∧
      (execMicroOps ops s).inputs = s.inputs ∧ (execMicroOps ops s).epoch = s.epoch := by
  induction ops generalizing s with
  | nil => simp [execMicroOps]
  | cons op ops ih => simpa [execMicroOps] using ih (execMicroOp op s)

/-- The running edge of a command whose microprogram is one micro-operation (R191, R192). -/
theorem exec_of_single {i : Instr} {op : MicroOp} {s : State} (hw : i.WellFormed) (hm : microprogram i = [op])
    (hp : s.phase = .run) (hu : s.upc = 0) :
    exec i s = .next { execMicroOp op s with phase := .idle, done := true } := by
  rw [exec_of_wellFormed hw, commandEdge_run hp, microStep_of_getElem? (by rw [hm, hu]; rfl)]
  simp [hu, hm, completeCommand, State.flagDone]

end Sys2Proof.Machine
end

