-- ==== Sys2Proof/Laws/PerInstr.lean ====
section
/-! SUPPORT. The statement made per instruction: where the encoder puts the two fields of the command word (30_encoding.md
R70 to R72). -/

/-- The op field of the encoded word is the command's op, and its idx field the command's index (R70). -/
def Sys2Proof.Laws.EncodedFields.Statement (i : Sys2Proof.Instr) : Prop :=
  Sys2Proof.opField (Sys2Proof.encode i) = i.opcode ∧ Sys2Proof.idxField (Sys2Proof.encode i) = i.index

namespace Sys2Proof.Laws.EncodedFields

theorem enc : Statement .enc := by unfold Statement; decide
theorem dec : Statement .dec := by unfold Statement; decide
theorem load : Statement .load := by unfold Statement; decide
theorem ark : Statement .ark := by unfold Statement; decide
theorem sub : Statement .sub := by unfold Statement; decide
theorem shr : Statement .shr := by unfold Statement; decide
theorem mix : Statement .mix := by unfold Statement; decide
theorem kexp (i : Nibble) : Statement (.kexp i) := by unfold Statement; revert i; decide
theorem isub : Statement .isub := by unfold Statement; decide
theorem ishr : Statement .ishr := by unfold Statement; decide
theorem imix : Statement .imix := by unfold Statement; decide
theorem ksched : Statement .ksched := by unfold Statement; decide
theorem arki (j : Nibble) : Statement (.arki j) := by unfold Statement; revert j; decide

end Sys2Proof.Laws.EncodedFields
end

