-- ==== Sys2Proof/Laws/Rom.lean ====
section
/-! SUPPORT. The printed ROMs hold what 40_gf_tables.md defines: the multiplication tables in the form of R104, the S-box as
the affine image of the field inverse (R105), RCON as doublings (R107). -/

namespace Sys2Proof.Machine

set_option maxRecDepth 4000 in
theorem mul2_eq : ∀ v : Byte, mul2 v = xtime v := by decide

set_option maxRecDepth 4000 in
theorem mul3_eq : ∀ v : Byte, mul3 v = xtime v ^^^ v := by decide

set_option maxRecDepth 4000 in
theorem mul9_eq : ∀ v : Byte, mul9 v = x8 v ^^^ v := by decide

set_option maxRecDepth 4000 in
theorem mul11_eq : ∀ v : Byte, mul11 v = x8 v ^^^ xtime v ^^^ v := by decide

set_option maxRecDepth 4000 in
theorem mul13_eq : ∀ v : Byte, mul13 v = x8 v ^^^ x4 v ^^^ v := by decide

set_option maxRecDepth 4000 in
theorem mul14_eq : ∀ v : Byte, mul14 v = x8 v ^^^ x4 v ^^^ xtime v := by decide

set_option maxRecDepth 4000 in
/-- INV_SBOX undoes SBOX on every byte (R106). -/
theorem invSbox_sbox : ∀ v : Byte, invSbox (sbox v) = v := by decide

set_option maxRecDepth 4000 in
/-- SBOX undoes INV_SBOX on every byte (R106). -/
theorem sbox_invSbox : ∀ v : Byte, sbox (invSbox v) = v := by decide

theorem rcon_eq : ∀ i : Fin 10, rcon i = rconFormula i := by decide

/-- Exclusive-or of two sums, regrouped. -/
theorem Byte.xor_regroup (a b c d : Byte) : (a ^^^ b) ^^^ (c ^^^ d) = (a ^^^ c) ^^^ (b ^^^ d) := by ac_rfl

/-- xtime is linear over exclusive-or (R101, R102). -/
theorem xtime_xor (a b : Byte) : xtime (a ^^^ b) = xtime a ^^^ xtime b := by
  unfold xtime
  rw [BitVec.shiftLeft_xor_distrib, BitVec.getLsbD_xor, Byte.xor_regroup]
  cases a.getLsbD 7 <;> cases b.getLsbD 7 <;> rfl

theorem x4_xor (a b : Byte) : x4 (a ^^^ b) = x4 a ^^^ x4 b := by simp [x4, xtime_xor]

theorem x8_xor (a b : Byte) : x8 (a ^^^ b) = x8 a ^^^ x8 b := by simp [x8, x4_xor, xtime_xor]

/-- Every multiplication table is linear: multiplication distributes over field addition (R103, R104). -/
theorem mul2_xor (a b : Byte) : mul2 (a ^^^ b) = mul2 a ^^^ mul2 b := by simp only [mul2_eq, xtime_xor]

theorem mul3_xor (a b : Byte) : mul3 (a ^^^ b) = mul3 a ^^^ mul3 b := by simp only [mul3_eq, xtime_xor]; ac_rfl

theorem mul9_xor (a b : Byte) : mul9 (a ^^^ b) = mul9 a ^^^ mul9 b := by simp only [mul9_eq, x8_xor]; ac_rfl

theorem mul11_xor (a b : Byte) : mul11 (a ^^^ b) = mul11 a ^^^ mul11 b := by
  simp only [mul11_eq, x8_xor, xtime_xor]; ac_rfl

theorem mul13_xor (a b : Byte) : mul13 (a ^^^ b) = mul13 a ^^^ mul13 b := by
  simp only [mul13_eq, x8_xor, x4_xor]; ac_rfl

theorem mul14_xor (a b : Byte) : mul14 (a ^^^ b) = mul14 a ^^^ mul14 b := by
  simp only [mul14_eq, x8_xor, x4_xor, xtime_xor]; ac_rfl

end Sys2Proof.Machine
end

