-- ==== Sys2Proof/Tests/Slice0.lean ====
section
/-! SUPPORT. The model's own tests: well-formedness, decoding against words written out from the encoding, single edges
against the values of spec/95_test_vectors.md, and a witness for the hypotheses of every statement that has some. -/

namespace Sys2Proof.Tests

open Sys2Proof.Machine

/-! ## Helpers -/

/-- The key and the plain text of the known answer (SV1). -/
def katKey : PortWord := 0x000102030405060708090a0b0c0d0e0f
def katPlain : PortWord := 0x00112233445566778899aabbccddeeff

/-- The pins with the word `cmd` presented beside the operands of SV1. -/
def present (cmd : BitVec 8) : PortIn := ⟨false, true, cmd, katKey, katPlain⟩

/-- An IDLE core right after reset, with the word `cmd` at the pins. -/
def accepting (cmd : BitVec 8) : State := { State.reset with inputs := [present cmd] }

/-- A core at the first micro-operation of command `i`, with STATE, KEY and every RK entry written. -/
def running (i : Instr) (x k : PortWord) : State :=
  { State.reset with
    state := unpack x, key := unpack k, rk := Vector.replicate 11 (unpack k), wState := true, wKey := true,
    wRk := Vector.replicate 11 true, phase := .run, prog := i }

/-- A core at a reset edge. -/
def resetting : State := { running .sub katPlain katKey with inputs := [⟨true, true, 0x10, katKey, katPlain⟩] }

/-- The next state of an outcome. -/
def after (o : Host.Outcome State Fault Refusal) : Option State :=
  match o with
  | .next t => some t
  | .fault _ => none
  | .refused _ => none

/-- STATE and KEY after an edge, as port words. -/
def stateOf (o : Host.Outcome State Fault Refusal) : Option PortWord := (after o).map fun t => pack t.state
def keyOf (o : Host.Outcome State Fault Refusal) : Option PortWord := (after o).map fun t => pack t.key

/-- phase, done and err after an edge. -/
def flagsOf (o : Host.Outcome State Fault Refusal) : Option (Phase × Bool × Bool) :=
  (after o).map fun t => (t.phase, t.done, t.err)

/-! ## Well-formedness: an index outside R72's range is refused -/

theorem test_kexp_10_is_ill_formed : ¬(Instr.kexp 10).WellFormed := by decide
theorem test_kexp_11_is_ill_formed : ¬(Instr.kexp 11).WellFormed := by decide
theorem test_kexp_12_is_ill_formed : ¬(Instr.kexp 12).WellFormed := by decide
theorem test_kexp_13_is_ill_formed : ¬(Instr.kexp 13).WellFormed := by decide
theorem test_kexp_14_is_ill_formed : ¬(Instr.kexp 14).WellFormed := by decide
theorem test_kexp_15_is_ill_formed : ¬(Instr.kexp 15).WellFormed := by decide
theorem test_arki_11_is_ill_formed : ¬(Instr.arki 11).WellFormed := by decide
theorem test_arki_12_is_ill_formed : ¬(Instr.arki 12).WellFormed := by decide
theorem test_arki_13_is_ill_formed : ¬(Instr.arki 13).WellFormed := by decide
theorem test_arki_14_is_ill_formed : ¬(Instr.arki 14).WellFormed := by decide
theorem test_arki_15_is_ill_formed : ¬(Instr.arki 15).WellFormed := by decide
theorem test_greatest_indices_are_well_formed : (Instr.kexp 9).WellFormed ∧ (Instr.arki 10).WellFormed := by decide

/-! ## Decoding: each word written out as op:4 idx:4 from the opcode map of R73 -/

theorem test_decode_enc : decode 0b0001_0000 = .command .enc ∧ encode .enc = 0b0001_0000 := by decide
theorem test_decode_dec : decode 0b0010_0000 = .command .dec ∧ encode .dec = 0b0010_0000 := by decide
theorem test_decode_load : decode 0b0011_0000 = .command .load ∧ encode .load = 0b0011_0000 := by decide
theorem test_decode_ark : decode 0b0100_0000 = .command .ark ∧ encode .ark = 0b0100_0000 := by decide
theorem test_decode_sub : decode 0b0101_0000 = .command .sub ∧ encode .sub = 0b0101_0000 := by decide
theorem test_decode_shr : decode 0b0110_0000 = .command .shr ∧ encode .shr = 0b0110_0000 := by decide
theorem test_decode_mix : decode 0b0111_0000 = .command .mix ∧ encode .mix = 0b0111_0000 := by decide
theorem test_decode_kexp : decode 0b1000_0111 = .command (.kexp 7) ∧ encode (.kexp 7) = 0b1000_0111 := by decide
theorem test_decode_isub : decode 0b1001_0000 = .command .isub ∧ encode .isub = 0b1001_0000 := by decide
theorem test_decode_ishr : decode 0b1010_0000 = .command .ishr ∧ encode .ishr = 0b1010_0000 := by decide
theorem test_decode_imix : decode 0b1011_0000 = .command .imix ∧ encode .imix = 0b1011_0000 := by decide
theorem test_decode_ksched : decode 0b1100_0000 = .command .ksched ∧ encode .ksched = 0b1100_0000 := by decide
theorem test_decode_arki : decode 0b1101_1010 = .command (.arki 10) ∧ encode (.arki 10) = 0b1101_1010 := by decide

/-- DV9: 32 words are legal, 224 are not. -/
theorem test_decode_counts :
    ((List.range 256).filter fun w => (decodeTableWord 8 w).isSome).length = 32 := by decide +kernel
theorem test_decode_illegal_words :
    decode 0x00 = .illegal (.reservedOp 0) ∧ decode 0xE0 = .illegal (.reservedOp 14) ∧
      decode 0x11 = .illegal (.nonzeroIndex 1 1) ∧ decode 0x8F = .illegal (.kexpIndex 15) ∧
      decode 0xDB = .illegal (.arkiIndex 11) := by decide
theorem test_table_word : decodeTableWord 8 0x83 = some (.kexp 3) ∧ decodeTableWord 8 0x00 = none := by decide
/-- The word placed for the next edge is the one accepted there: IDLE after reset, LOAD completes at its acceptance. -/
theorem test_placed_word_is_run :
    (after (step (State.reset.withFetchWord 8 0x83))).map (fun t => (t.phase, t.prog)) = some (.run, .kexp 3) ∧
      flagsOf (step (State.reset.withFetchWord 8 0x30)) = some (.idle, true, false) := by decide

/-! ## ROMs and field arithmetic (DV1) -/

theorem test_gmul : gmul 0x57 0x83 = 0xc1 ∧ gmul 0x53 0xca = 0x01 ∧ gmul 0xff 0xff = 0x13 := by decide
theorem test_xtime : xtime 0x80 = 0x1b ∧ xtime 0x57 = 0xae ∧ xtime 0xff = 0xe5 := by decide
theorem test_roms_at_53 :
    mul2 0x53 = 0xa6 ∧ mul3 0x53 = 0xf5 ∧ mul9 0x53 = 0xfd ∧ mul11 0x53 = 0x5b ∧ mul13 0x53 = 0xaa ∧ mul14 0x53 = 0x5f ∧
      sbox 0x53 = 0xed ∧ invSbox 0x53 = 0x50 := by decide
theorem test_roms_at_ff :
    mul2 0xff = 0xe5 ∧ mul3 0xff = 0x1a ∧ mul9 0xff = 0x46 ∧ mul11 0xff = 0xa3 ∧ mul13 0xff = 0x97 ∧ mul14 0xff = 0x8d ∧
      sbox 0xff = 0x16 ∧ invSbox 0xff = 0x7d := by decide
theorem test_rcon : rcon 0 = 0x01 ∧ rcon 7 = 0x80 ∧ rcon 8 = 0x1b ∧ rcon 9 = 0x36 := by decide

/-! ## One edge of each command, against DV2 to DV6 -/

theorem test_ark :
    stateOf (exec .ark (running .ark 0x00112233445566778899aabbccddeeff 0x000102030405060708090a0b0c0d0e0f)) = some 0x00102030405060708090a0b0c0d0e0f0 := by decide
theorem test_ark_keeps_key :
    keyOf (exec .ark (running .ark katPlain katKey)) = some katKey ∧
      flagsOf (exec .ark (running .ark katPlain katKey)) = some (.idle, true, false) := by decide
theorem test_sub :
    stateOf (exec .sub (running .sub 0x000102030405060708090a0b0c0d0e0f 0x00000000000000000000000000000000)) = some 0x637c777bf26b6fc53001672bfed7ab76 := by decide
theorem test_sub_of_cipher :
    stateOf (exec .sub (running .sub 0x69c4e0d86a7b0430d8cdb78070b4c55a 0x00000000000000000000000000000000)) = some 0xf91ce1610221f20461bda9cd518da6be := by decide
theorem test_shr :
    stateOf (exec .shr (running .shr 0x000102030405060708090a0b0c0d0e0f 0x00000000000000000000000000000000)) = some 0x00050a0f04090e03080d02070c01060b := by decide
theorem test_shr_columns :
    stateOf (exec .shr (running .shr 0x00000000ffffffff00000000ffffffff 0x00000000000000000000000000000000)) = some 0x00ff00ffff00ff0000ff00ffff00ff00 := by decide
theorem test_mix :
    stateOf (exec .mix (running .mix 0x6353e08c0960e104cd70b751bacad0e7 0x00000000000000000000000000000000)) = some 0x5f72641557f5bc92f7be3b291db9f91a := by decide
theorem test_mix_reduction :
    stateOf (exec .mix (running .mix 0x800000000000008001010101db135345 0x00000000000000000000000000000000)) = some 0x1b80809b80809b1b010101018e4da1bc := by decide
theorem test_isub :
    stateOf (exec .isub (running .isub 0x000102030405060708090a0b0c0d0e0f 0x00000000000000000000000000000000)) = some 0x52096ad53036a538bf40a39e81f3d7fb := by decide
theorem test_isub_of_cipher :
    stateOf (exec .isub (running .isub 0x69c4e0d86a7b0430d8cdb78070b4c55a 0x00000000000000000000000000000000)) = some 0xe488a02d580330082d80203ad0c60746 := by decide
theorem test_ishr :
    stateOf (exec .ishr (running .ishr 0x000102030405060708090a0b0c0d0e0f 0x00000000000000000000000000000000)) = some 0x000d0a0704010e0b0805020f0c090603 := by decide
theorem test_ishr_of_trace :
    stateOf (exec .ishr (running .ishr 0x7ad5fda789ef4e272bca100b3d9ff59f 0x00000000000000000000000000000000)) = some 0x7a9f102789d5f50b2beffd9f3dca4ea7 := by decide
theorem test_imix :
    stateOf (exec .imix (running .imix 0x6353e08c0960e104cd70b751bacad0e7 0x00000000000000000000000000000000)) = some 0xb3f58892d6723d15ead42643a00344a0 := by decide
theorem test_imix_columns :
    stateOf (exec .imix (running .imix 0x80000000000000802d26314cf20a225c 0x00000000000000000000000000000000)) = some 0x41ecdaf7ecdaf741a05050d6aec36982 := by decide
theorem test_arki :
    stateOf (exec (.arki 10) (running (.arki 10) 0x69c4e0d86a7b0430d8cdb78070b4c55a 0x13111d7fe3944a17f307a78b4d2b30c5)) = some 0x7ad5fda789ef4e272bca100b3d9ff59f := by decide
theorem test_arki_reads_its_own_entry :
    stateOf (exec (.arki 3) { running (.arki 3) 0 0 with rk := (Vector.replicate 11 Block.zero).set 3 (unpack katKey) }) =
      some katKey := by decide
theorem test_kexp_zero_key_last_constant :
    keyOf (exec (.kexp 9) (running (.kexp 9) 0 0)) = some 0x55636363556363635563636355636363 := by decide
theorem test_kexp_wrong_index :
    keyOf (exec (.kexp 1) (running (.kexp 1) 0 katKey)) = some 0xd5aa74fdd1af72fad9a678f1d5ab76fe := by decide
theorem test_ksched_first_step :
    (after (exec .ksched (running .ksched katPlain katKey))).map
        (fun t => [pack (t.rk.get 0), pack (t.rk.get 1), pack t.key, pack t.state]) =
      some [katKey, 0xd6aa74fdd2af72fadaa678f1d6ab76fe, 0xd6aa74fdd2af72fadaa678f1d6ab76fe, katPlain] := by decide
theorem test_ksched_last_step :
    (after (exec .ksched { running .ksched 0 0x549932d1f08557681093ed9cbe2c974e with upc := 9 })).map
        (fun t => (pack (t.rk.get 10), t.phase, t.done)) =
      some (0x13111d7fe3944a17f307a78b4d2b30c5, .idle, true) := by decide
theorem test_load :
    stateOf (exec .load (accepting 0x30)) = some katPlain ∧ keyOf (exec .load (accepting 0x30)) = some katKey ∧
      flagsOf (exec .load (accepting 0x30)) = some (.idle, true, false) := by decide
theorem test_load_layout :
    (after (exec .load (accepting 0x30))).map (fun t => (t.state.cell 1 0, t.state.cell 0 1, t.key.cell 3 3)) =
      some (0x11, 0x44, 0x0f) := by decide
theorem test_enc_acceptance :
    stateOf (exec .enc (accepting 0x10)) = some katPlain ∧
      flagsOf (exec .enc (accepting 0x10)) = some (.run, false, false) := by decide
/-- SV1, upc 49. -/
theorem test_enc_last_step :
    stateOf (exec .enc { running .enc 0x7ad5fda789ef4e272bca100b3d9ff59f 0x13111d7fe3944a17f307a78b4d2b30c5 with
      upc := 49 }) = some 0x69c4e0d86a7b0430d8cdb78070b4c55a := by decide
/-- DV8, upc 0 and upc 14. -/
theorem test_dec_first_step :
    keyOf (exec .dec (running .dec 0x69c4e0d86a7b0430d8cdb78070b4c55a katKey)) =
      some 0xd6aa74fdd2af72fadaa678f1d6ab76fe := by decide
theorem test_dec_imix_step :
    stateOf (exec .dec { running .dec 0xe9f74eec023020f61bf2ccf2353c21c7 katKey with upc := 14 }) =
      some 0x54d990a16ba09ab596bbf40ea111702f := by decide

/-! ## The exception, reset, and unwritten reads (R241, R244, R270, DV13) -/

theorem test_illegal_word_sets_err : flagsOf (step (accepting 0x00)) = some (.idle, false, true) := by decide
theorem test_illegal_word_keeps_state :
    stateOf (step { accepting 0x8A with state := unpack katPlain, done := true }) = some katPlain := by decide
theorem test_reset_aborts : flagsOf (step resetting) = some (.idle, false, false) ∧
    (after (step resetting)).map (fun t => (t.wState, t.wKey, t.wRk.get 10)) = some (false, false, false) := by decide
/-- DV13: ARK after reset reads STATE first; after LOAD, ARKI 3 reads RK[3]. The machine runs on. -/
theorem test_unwritten_state :
    checkedStep { State.reset with phase := .run, prog := .ark } = .error .state ∧
      flagsOf (exec .ark { State.reset with phase := .run, prog := .ark }) = some (.idle, true, false) := ⟨rfl, rfl⟩
theorem test_unwritten_round_key :
    (after (exec (.arki 3) { running (.arki 3) 0 0 with wRk := Vector.replicate 11 false })).map (·.faulted) =
      some (some (.rk 3)) := rfl
theorem test_first_unwritten_read_stays :
    (after (exec .sub { State.reset with phase := .run, prog := .sub, faulted := some .key })).map (·.faulted) =
      some (some .key) := rfl

/-! ## The end of a run (R283) -/

/-- LOAD, then SUB: the end comes at edge 3, and the word dropped at a reset edge is not accepted. -/
theorem test_run_ends :
    (runToEnd 3 [0x30, 0x50] { State.reset with inputs := [present 0x30, present 0x50, quietPins] }).map
        (fun e => (e.cut, e.final.phase, e.final.done)) = some (false, .idle, true) ∧
      (runToEnd 2 [0x30, 0x50] { State.reset with inputs := [present 0x30, present 0x50, quietPins] }).isNone := by decide
theorem test_run_cut_by_reset :
    (runToEnd 9 [0x10] { State.reset with inputs := [present 0x10, ⟨true, true, 0x30, 0, 0⟩] }).map
        (fun e => (e.cut, e.final.phase, e.final.done)) = some (true, .idle, false) := by decide

/-! ## The cipher functions and the codec (DV7, SV5 to SV9) -/

theorem test_aesEnc_known_answer :
    pack (aesEnc (unpack katKey) (unpack katPlain)) = 0x69c4e0d86a7b0430d8cdb78070b4c55a := by decide +kernel
theorem test_aesDec_known_answer :
    pack (aesDec (unpack 0x5468617473206d79204b756e67204675) (unpack 0x29c3505f571420f6402299b31a02d73a)) =
      0x54776f204f6e65204e696e652054776f := by decide +kernel
theorem test_round_key_ten : pack (roundKey (unpack katKey) 10) = 0x13111d7fe3944a17f307a78b4d2b30c5 := by decide +kernel
theorem test_text_pads :
    textToState .rejectLong (codes ['s', 'h', 'o', 'r', 't']) = .ok (unpack 0x73686f72740000000000000000000000) := by decide
theorem test_hex_rejects : hexToState (codes ['z', 'z']) = .error .formatError ∧
    hexToState (codes ['0', '0', '1', '1', '2', '2', '3', '3']) = .error .formatError := by decide
theorem test_hex_lengths :
    (stateToHex false Block.zero).length = 47 ∧ (stateToHex true Block.zero).length = 48 := by decide

/-! ## The assembler (R76, R77) -/

theorem test_assemble_index :
    assemble (codes ['K', 'E', 'X', 'P', ' ', '9', ' ', ';', 'x']) = .ok [0x89] ∧
      assemble (codes ['A', 'R', 'K', 'I', ' ', '1', '1']) = .error .indexOutOfRange := by decide
theorem test_assemble_pseudo :
    assemble (codes ['F', 'L', 'A', 'S', 'T', Char.ofNat 10, 'S', 'U', 'B', ' ', '1']) = .error .operandNotAllowed ∧
      assemble (codes ['F', 'L', 'A', 'S', 'T']) = .ok [0x50, 0x60, 0x89, 0x40] := by decide

/-! ## Witnesses: a state and operands that meet the hypotheses of each statement, clause by clause -/

theorem test_hyps_DecodeOfEncodeIsTheCommand :
    (Instr.kexp 0).WellFormed ∧ (Instr.kexp 9).WellFormed ∧ (Instr.arki 0).WellFormed ∧ (Instr.arki 10).WellFormed ∧
      Instr.enc.WellFormed := by decide
theorem test_hyps_LegalWordHasOneCommand :
    decode 0x80 = .command (.kexp 0) ∧ decode 0x89 = .command (.kexp 9) ∧ decode 0xDA = .command (.arki 10) := by decide
/-- One word at each edge of each range of illegal words. -/
theorem test_hyps_IllegalWordsRaiseIllegalCommand :
    ∀ c ∈ ([0x00, 0x0F, 0xE0, 0xFF, 0x11, 0xCF, 0x8A, 0x8F, 0xDB, 0xDF] : List (BitVec 8)),
      (accepting c).pins.rst = false ∧ (accepting c).phase = .idle ∧ (accepting c).pins.cmdValid = true ∧
        (decode (accepting c).pins.cmd).toOption = none := by decide
theorem test_hyps_IllegalWordsRaiseIllegalCommand_word :
    decode (accepting 0x8A).pins.cmd = .illegal (.kexpIndex 10) := by decide
theorem test_hyps_StepRunsTheDecodedCommand :
    (accepting 0x50).pins.rst = false ∧ (accepting 0x50).phase = .idle ∧ (accepting 0x50).pins.cmdValid = true ∧
      decode (accepting 0x50).pins.cmd = .command .sub := by decide
theorem test_hyps_EdgePriority :
    resetting.pins.rst = true ∧
      ((running .sub 0 0).pins.rst = false ∧ (running .sub 0 0).phase = .run) ∧
      ((accepting 0xFF).pins.rst = false ∧ (accepting 0xFF).phase = .idle ∧ (accepting 0xFF).pins.cmdValid = true ∧
        decode (accepting 0xFF).pins.cmd = .illegal (.reservedOp 15)) ∧
      (State.reset.pins.rst = false ∧ State.reset.phase = .idle ∧ State.reset.pins.cmdValid = false) := by decide
theorem test_hyps_ResetEdgeClears : resetting.pins.rst = true ∧ (⟨true, false, 0, 0, 0⟩ : PortIn).rst = true := by decide
theorem test_hyps_StateAfterReset : resetting.pins.rst = true ∧ ∃ t, step resetting = .next t := ⟨by decide, _, rfl⟩
theorem test_hyps_InputsSampledOnlyAtAcceptance :
    ((present 0xFF).rst = (running .enc 0 0).pins.rst ∧ (running .enc 0 0).phase = .run) ∧
      (quietPins.rst = State.reset.pins.rst ∧ State.reset.pins.cmdValid = false ∧ quietPins.cmdValid = false) := by decide
theorem test_hyps_InputsSampledOnlyAtAcceptance_reset :
    (⟨true, false, 0, 0, 0⟩ : PortIn).rst = resetting.pins.rst ∧ resetting.pins.rst = true ∧ ∃ t, step resetting = .next t :=
  ⟨by decide, by decide, _, rfl⟩
theorem test_hyps_InputsSampledOnlyAtAcceptance_operands :
    ∀ i, decode (accepting 0x50).pins.cmd = .command i → i ≠ .load ∧ i ≠ .enc ∧ i ≠ .dec := by
  intro i h
  cases h
  decide
theorem test_hyps_OutputPortsAreWires : (running .sub 0 0).wState = true := by decide
theorem test_hyps_ErrIsStickyAndBlocksNothing :
    (∃ t, step { accepting 0x50 with err := true } = .next t) ∧ (accepting 0x50).pins.rst = false ∧
      (∃ t, step resetting = .next t) ∧ resetting.pins.rst = true ∧
      ∃ f, step { State.reset with phase := .run, prog := .sub, upc := 1 } = .fault f :=
  ⟨⟨_, rfl⟩, by decide, ⟨_, rfl⟩, by decide, .noMicroOp, rfl⟩
theorem test_hyps_DoneChangesOnlyAtAcceptanceAndCompletion :
    SequencerOk (running .sub 0 0) ∧ ∃ t, step (running .sub 0 0) = .next t := ⟨fun _ => by decide, _, rfl⟩
theorem test_hyps_ErrChangesOnlyByIllegalWordAndReset :
    SequencerOk (accepting 0x00) ∧ ∃ t, step (accepting 0x00) = .next t := ⟨fun h => (nomatch h), _, rfl⟩
theorem test_hyps_AcceptanceStartsTheMicroprogram :
    (accepting 0x30).pins.rst = false ∧ (accepting 0x30).phase = .idle ∧ (accepting 0x30).pins.cmdValid = true := by decide
theorem test_hyps_AcceptanceStartsTheMicroprogram_no_other_edge :
    ∃ t, step (running .enc 0 0) = .next t ∧ t.phase = .run ∧
      ¬((running .enc 0 0).pins.rst = false ∧ (running .enc 0 0).phase = .idle ∧
        (running .enc 0 0).pins.cmdValid = true) := ⟨_, rfl, by decide, by decide⟩
theorem test_hyps_LoadLoadsStateAndKey : (accepting 0x30).phase = .idle := by decide
theorem test_hyps_MicroStepExecutesTheOperationAtUpc :
    Instr.enc.WellFormed ∧ (running .enc 0 0).phase = .run ∧ (running .enc 0 0).pins.rst = false ∧
      (microprogram .enc)[(running .enc 0 0).upc]? = some .ark := by decide
theorem test_hyps_MicroStepExecutesTheOperationAtUpc_unwritten :
    ∃ s : State, s.pins.rst = false ∧ s.phase = .run ∧ (microprogram s.prog)[s.upc]? = some .ark ∧
      s.firstUnwritten MicroOp.ark.reads = some .key :=
  ⟨{ running .ark 0 0 with wKey := false }, by decide⟩
theorem test_hyps_MicroStepExecutesTheOperationAtUpc_last :
    (microprogram .enc)[49]? = some .ark ∧ (microprogram .dec)[49]? = some (.arki 0) ∧
      (microprogram .ksched)[9]? = some (.ks 9) := by decide
theorem test_hyps_UnwrittenReadFaultsWhenChecked :
    ∃ s : State, s.pins.rst = false ∧ s.phase = .run ∧ (microprogram s.prog)[s.upc]? = some .ark ∧
      MicroOp.ark.reads.find? (fun q => !s.written q) = some .key :=
  ⟨{ running .ark 0 0 with wKey := false }, by decide⟩
theorem test_hyps_UnwrittenReadFaultsWhenChecked_written :
    (running .ark 0 0).pins.rst = false ∧ (running .ark 0 0).phase = .run ∧
      (microprogram (running .ark 0 0).prog)[(running .ark 0 0).upc]? = some .ark ∧
      ∀ q ∈ MicroOp.ark.reads, (running .ark 0 0).written q = true := by decide
theorem test_hyps_UnwrittenReadFaultsWhenChecked_idle :
    (accepting 0x10).pins.rst = false ∧ (accepting 0x10).phase = .idle ∧ resetting.pins.rst = true := by decide
theorem test_hyps_RunWithoutMicroOperationStops :
    ∃ s : State, Instr.sub.WellFormed ∧ s.phase = .run ∧ latency .sub ≤ s.upc :=
  ⟨{ running .sub 0 0 with upc := 1 }, by decide⟩
theorem test_hyps_IllegalIndexRaisesIllegalCommand :
    9 < (0xA : Nibble).toNat ∧ 9 < (0xF : Nibble).toNat ∧ 10 < (0xB : Nibble).toNat ∧ 10 < (0xF : Nibble).toNat := by decide

theorem test_hyps_ArkAddsKeyToState :
    (running .ark 0 0).phase = .run ∧ (running .ark 0 0).upc = 0 := by decide
theorem test_hyps_SubSubstitutesEveryByte :
    (running .sub 0 0).phase = .run ∧ (running .sub 0 0).upc = 0 := by decide
theorem test_hyps_ShrRotatesRowsLeft :
    (running .shr 0 0).phase = .run ∧ (running .shr 0 0).upc = 0 := by decide
theorem test_hyps_MixCombinesEachColumn :
    (running .mix 0 0).phase = .run ∧ (running .mix 0 0).upc = 0 := by decide
theorem test_hyps_IsubSubstitutesEveryByte :
    (running .isub 0 0).phase = .run ∧ (running .isub 0 0).upc = 0 := by decide
theorem test_hyps_IshrRotatesRowsRight :
    (running .ishr 0 0).phase = .run ∧ (running .ishr 0 0).upc = 0 := by decide
theorem test_hyps_ImixCombinesEachColumn :
    (running .imix 0 0).phase = .run ∧ (running .imix 0 0).upc = 0 := by decide
theorem test_hyps_ArkiAddsStoredRoundKey :
    (running (.arki 10) 0 0).phase = .run ∧ (running (.arki 10) 0 0).upc = 0 := by decide
theorem test_hyps_KexpAdvancesKey :
    (running (.kexp 9) 0 0).phase = .run ∧ (running (.kexp 9) 0 0).upc = 0 := by decide
theorem test_hyps_ArkiAddsStoredRoundKey_first :
    (running (.arki 0) 0 0).phase = .run ∧ (running (.arki 0) 0 0).upc = 0 := by decide
theorem test_hyps_KexpAdvancesKey_first :
    (running (.kexp 0) 0 0).phase = .run ∧ (running (.kexp 0) 0 0).upc = 0 := by decide
theorem test_hyps_ScheduleStepExtendsTheSchedule :
    ∃ s : State, s.phase = .run ∧ s.upc = (9 : Fin 10) := ⟨{ running .ksched 0 0 with upc := 9 }, by decide⟩
theorem test_hyps_ScheduleStepExtendsTheSchedule_first :
    (running .dec 0 0).phase = .run ∧ (running .dec 0 0).upc = (0 : Fin 10) := by decide
theorem test_hyps_KschedBuildsTheWholeSchedule : (accepting 0xC0).phase = .idle := by decide
theorem test_hyps_EncExecutesEncProg :
    ∃ s : State, s.phase = .run ∧ encProg[s.upc]? = some .ark ∧ s.wState = true ∧ s.wKey = true ∧ s.upc = 49 :=
  ⟨{ running .enc 0 0 with upc := 49 }, by decide⟩
theorem test_hyps_EncExecutesEncProg_first :
    (running .enc 0 0).phase = .run ∧ encProg[(running .enc 0 0).upc]? = some .ark ∧ (running .enc 0 0).wState = true ∧
      (running .enc 0 0).wKey = true := by decide
theorem test_hyps_DecExecutesDecProg :
    ∃ s : State, s.phase = .run ∧ decProg[s.upc]? = some (.arki 0) ∧ s.wState = true ∧ s.wKey = true ∧
      (10 ≤ s.upc → ∀ j, s.wRk.get j = true) :=
  ⟨{ running .dec 0 0 with upc := 49 }, by decide⟩
theorem test_hyps_DecExecutesDecProg_schedule :
    ∃ s : State, s.phase = .run ∧ decProg[s.upc]? = some (.ks 0) ∧ s.wState = true ∧ s.wKey = true ∧
      (10 ≤ s.upc → ∀ j, s.wRk.get j = true) :=
  ⟨{ running .dec 0 0 with wRk := Vector.replicate 11 false }, by decide⟩
theorem test_hyps_EncCommandEncrypts :
    (accepting 0x10).phase = .idle ∧ (accepting 0x10).pins.cmdValid = true ∧ (accepting 0x10).pins.cmd = 0x10 ∧
      NoResetFor 51 (accepting 0x10) := by unfold NoResetFor; decide
theorem test_hyps_DecCommandDecrypts :
    (accepting 0x20).phase = .idle ∧ (accepting 0x20).pins.cmdValid = true ∧ (accepting 0x20).pins.cmd = 0x20 ∧
      NoResetFor 51 (accepting 0x20) := by unfold NoResetFor; decide
theorem test_hyps_CipherIgnoresEarlierState :
    ∃ s s' : State, s ≠ s' ∧ s.phase = .idle ∧ s'.phase = .idle ∧ s.pins = s'.pins ∧ s.pins.cmdValid = true ∧
      NoResetFor 51 s ∧ NoResetFor 51 s' ∧ s.pins.cmd = 0x10 :=
  ⟨accepting 0x10, { accepting 0x10 with err := true, wKey := true }, by unfold NoResetFor; decide⟩
theorem test_hyps_CipherIgnoresEarlierState_dec :
    ∃ s s' : State, s ≠ s' ∧ s.phase = .idle ∧ s'.phase = .idle ∧ s.pins = s'.pins ∧ s.pins.cmdValid = true ∧
      NoResetFor 51 s ∧ NoResetFor 51 s' ∧ s.pins.cmd = 0x20 :=
  ⟨accepting 0x20, { accepting 0x20 with err := true, wKey := true }, by unfold NoResetFor; decide⟩
theorem test_hyps_RunReachesTheCommandLevelState :
    (accepting 0xC0).phase = .idle ∧ (accepting 0xC0).pins.cmdValid = true ∧
      decode (accepting 0xC0).pins.cmd = .command .ksched ∧ NoResetFor (latency .ksched + 1) (accepting 0xC0) := by
  unfold NoResetFor; decide
theorem test_hyps_BusyForExactlyTheLatency :
    (accepting 0x50).phase = .idle ∧ (accepting 0x50).pins.cmdValid = true ∧
      decode (accepting 0x50).pins.cmd = .command .sub ∧ NoResetFor (latency .sub + 1) (accepting 0x50) ∧
      1 ≤ latency .sub ∧ latency .sub ≤ latency .sub + 1 := by unfold NoResetFor; decide
theorem test_hyps_SequencerInvariantKeptByStep :
    Invariant (running .enc 0 0) ∧ ∃ t, step (running .enc 0 0) = .next t := ⟨⟨fun _ => by decide, fun _ => rfl⟩, _, rfl⟩
theorem test_hyps_StateWrittenOnlyByStagesAndLoads :
    SequencerOk (running .sub 0 0) ∧ (running .sub 0 0).pins.rst = false ∧
      ∃ t, step (running .sub 0 0) = .next t ∧ t.state ≠ (running .sub 0 0).state :=
  ⟨fun _ => by decide, by decide, _, rfl, by decide⟩
theorem test_hyps_KeyWrittenOnlyByScheduleAndLoads :
    SequencerOk (running (.kexp 0) 0 0) ∧ (running (.kexp 0) 0 0).pins.rst = false ∧
      ∃ t, step (running (.kexp 0) 0 0) = .next t ∧ t.key ≠ (running (.kexp 0) 0 0).key :=
  ⟨fun _ => by decide, by decide, _, rfl, by decide⟩
theorem test_hyps_RoundKeysWrittenOnlyByKschedAndDec :
    SequencerOk (running .ksched 0 0) ∧ (running .ksched 0 0).pins.rst = false ∧
      ∃ t, step (running .ksched 0 0) = .next t ∧ (t.rk ≠ (running .ksched 0 0).rk ∨ t.wRk ≠ (running .ksched 0 0).wRk) :=
  ⟨fun _ => by decide, by decide, _, rfl, by decide⟩
theorem test_hyps_GhostBitsFollowWrites :
    (running .ksched 0 0).pins.rst = false ∧ (running .ksched 0 0).written .state = true ∧
      ∃ t, step (running .ksched 0 0) = .next t ∧ t.key ≠ (running .ksched 0 0).key ∧
        t.rk.get 1 ≠ (running .ksched 0 0).rk.get 1 := ⟨by decide, by decide, _, rfl, by decide, by decide⟩
theorem test_hyps_GhostBitsFollowWrites_state :
    ∃ t, step (running .sub 0 0) = .next t ∧ t.state ≠ (running .sub 0 0).state := ⟨_, rfl, by decide⟩
theorem test_hyps_InstancesShareNothing :
    ∃ a b : System, System.stepCore [accepting 0x10, running .sub 0 0] 0 = .next a ∧ System.stepCore a 1 = .next b ∧
      (0 : Nat) ≠ 1 := ⟨_, _, rfl, rfl, by decide⟩
theorem test_hyps_GmulIsAFieldProduct : (0x80 : Byte) ≠ 0 := by decide
theorem test_hyps_SboxIsAffineOfInverse : (0x01 : Byte) ≠ 0 ∧ (0xFF : Byte) ≠ 0 := by decide
theorem test_hyps_TextToStateOutcomes_long :
    16 < (List.replicate 17 0x61 : Text).length ∧ (List.replicate 16 0x61 : Text).length ≤ 16 := by decide
theorem test_hyps_TextToStateOutcomes_wide :
    ∃ text : Text, text.length ≤ 16 ∧ text[15]? = some 0x100 ∧ 0xFF < 0x100 ∧
      ∀ m < 15, ∀ e ∈ text[m]?, e ≤ 0xFF := ⟨List.replicate 15 0xFF ++ [0x100], by decide⟩
theorem test_hyps_TextToStateOutcomes_fits :
    ∃ text : Text, text.length = 17 ∧ ∀ m < 16, ∀ e ∈ text[m]?, e ≤ 0xFF := ⟨List.replicate 16 0xFF ++ [0x100], by decide⟩
theorem test_hyps_EncryptReturnsTheCiphertext :
    State.reset.phase = .idle ∧ (∃ k, textToState .truncatePad (codes ['k']) = .ok k) ∧
      ∃ p, textToState .truncatePad (codes ['a', 'b']) = .ok p := ⟨by decide, ⟨_, rfl⟩, _, rfl⟩
theorem test_hyps_DecryptUndoesEncrypt :
    State.reset.phase = .idle ∧ (∃ k, textToState .rejectLong (codes ['k']) = .ok k) ∧
      (List.replicate 16 0xFF : Text).length = 16 ∧ ∀ c ∈ (List.replicate 16 0xFF : Text), c ≤ 0xFF :=
  ⟨by decide, ⟨_, rfl⟩, by decide⟩
theorem test_hyps_RunEndsWhenItsCommandsAreDone :
    ∃ e, runToEnd 0 [] State.reset = some e ∧ e.cut = false := ⟨_, rfl, rfl⟩
theorem test_hyps_RunEndsWhenItsCommandsAreDone_cut :
    ∃ e, runToEnd 1 [0x30] { State.reset with inputs := [⟨true, false, 0, 0, 0⟩] } = some e ∧ e.cut = true := ⟨_, rfl, rfl⟩
theorem test_hyps_RunEndsWhenItsCommandsAreDone_program :
    ∃ (r : Request) (s : State), decode r.word = .command .load ∧ s.phase = .idle ∧ s.inputs = r.samples ∧
      s.faulted = none ∧ (command .load s).faulted = none ∧ latency .load + 1 ≤ 1 :=
  ⟨⟨0x30, katKey, katPlain⟩, State.reset.withProgram [⟨0x30, katKey, katPlain⟩], by decide⟩
theorem test_hyps_RunEndsWhenItsCommandsAreDone_unwritten :
    ∃ (r : Request) (s : State), decode r.word = .command .sub ∧ s.phase = .idle ∧ s.inputs = r.samples ∧
      s.faulted = none ∧ (command .sub s).faulted ≠ none :=
  ⟨⟨0x50, 0, 0⟩, State.reset.withProgram [⟨0x50, 0, 0⟩], by decide, by decide, by decide, rfl, nofun⟩

end Sys2Proof.Tests
end

/-! SUPPORT. Proofs about reset and the two status flags (10_state.md R29, R30, R34): first what each operation of the
sequencer does to the fields, then the statements. -/

namespace Sys2Proof.Machine

/-! ## Fields after a reset edge, an acceptance and a micro-step -/

section
variable (s : State)

@[simp] theorem State.reset_wRk_get (j : Fin 11) : State.reset.wRk.get j = false := by
  simp [State.reset, Vector.get_eq_getElem]

@[simp] theorem resetEdge_phase : (resetEdge s).phase = .idle := rfl
@[simp] theorem resetEdge_done : (resetEdge s).done = false := rfl
@[simp] theorem resetEdge_err : (resetEdge s).err = false := rfl
@[simp] theorem resetEdge_wState : (resetEdge s).wState = false := rfl
@[simp] theorem resetEdge_wKey : (resetEdge s).wKey = false := rfl
@[simp] theorem resetEdge_wRk : (resetEdge s).wRk = State.reset.wRk := rfl

@[simp] theorem illegalCommand_done : (illegalCommand s).done = false := rfl
@[simp] theorem illegalCommand_err : (illegalCommand s).err = true := rfl

/-- An accepted command is done at once exactly when its microprogram is empty (R29, R190). -/
@[simp] theorem acceptCommand_done (i : Instr) : (acceptCommand i s).done = decide (latency i = 0) := by
  by_cases hl : latency i = 0 <;> simp [acceptCommand, hl]

/-- Acceptance of a legal command leaves err as it was (R30, R190). -/
@[simp] theorem acceptCommand_err (i : Instr) : (acceptCommand i s).err = s.err := by
  by_cases hl : latency i = 0 <;> cases hp : loadsPorts i <;> simp [acceptCommand, hl, hp]

end

/-- Everything the running edge of a legal command that answers a next state did (R191). -/
theorem exec_run_next {i : Instr} {s t : State} (hw : i.WellFormed) (hp : s.phase = .run) (h : exec i s = .next t) :
    ∃ op, (microprogram i)[s.upc]? = some op ∧
      t = if s.upc + 1 = latency i then completeCommand (execMicroOp op s)
        else { execMicroOp op s with upc := s.upc + 1 } := by
  rw [exec_of_wellFormed hw, commandEdge_run hp] at h
  exact microStep_next h

/-- The running edge of a legal command sets done at the last micro-operation and leaves it otherwise (R29, R191). -/
theorem exec_run_done {i : Instr} {s t : State} (hw : i.WellFormed) (hp : s.phase = .run) (h : exec i s = .next t) :
    t.done = if s.upc + 1 = latency i then true else s.done := by
  obtain ⟨op, -, rfl⟩ := exec_run_next hw hp h
  split <;> simp

/-- The running edge of a legal command leaves err as it was (R30, R191). -/
theorem exec_run_err {i : Instr} {s t : State} (hw : i.WellFormed) (hp : s.phase = .run) (h : exec i s = .next t) :
    t.err = s.err := by
  obtain ⟨op, -, rfl⟩ := exec_run_next hw hp h
  split <;> simp

end Sys2Proof.Machine

/-! ## The statements -/

namespace Sys2Proof.Proofs

open Sys2Proof.Machine

/-- Settles O12, by the five things a step can do (R246). The sequencer premise makes the running command a legal one, so
its edge is a micro-step. -/
theorem doneChangesOnlyAtAcceptanceAndCompletion : Obligations.DoneChangesOnlyAtAcceptanceAndCompletion := by
  intro s t hs h
  obtain ⟨hr, rfl⟩ | ⟨hr, hp, u, hu, rfl⟩ | ⟨hr, hp, hv, i, -, hd, rfl⟩ | ⟨hr, hp, hv, ⟨why, hd⟩, rfl⟩ |
    ⟨hr, hp, hv, rfl⟩ := step_next h
  · simp [hr]
  · have hdone := exec_run_done (hs hp).1 hp hu
    simpa [hr, hp] using hdone
  · simp [hr, hp, hv, hd]
  · simp [hr, hp, hv, hd]
  · simp [hr, hp, hv]

/-- Settles O13, by the five things a step can do (R246). The sequencer premise rules out a running command with an illegal
index, the only other way to IllegalCommand. -/
theorem errChangesOnlyByIllegalWordAndReset : Obligations.ErrChangesOnlyByIllegalWordAndReset := by
  intro s t hs h
  obtain ⟨hr, rfl⟩ | ⟨hr, hp, u, hu, rfl⟩ | ⟨hr, hp, hv, i, -, hd, rfl⟩ | ⟨hr, hp, hv, ⟨why, hd⟩, rfl⟩ |
    ⟨hr, hp, hv, rfl⟩ := step_next h
  · simp [hr]
  · have herr := exec_run_err (hs hp).1 hp hu
    simp [hr, hp, herr]
  · simp [hr, hd]
  · simp [hr, hp, hv, hd]
  · simp [hr, hv]

/-- Settles O8: a reset edge leaves the given fields of `State.reset` (R34, R270), and the host's next sample at the pins is
none of them. -/
theorem stateAfterReset : Obligations.StateAfterReset := by
  rintro t (rfl | ⟨s, hr, h⟩)
  · exact ⟨rfl, rfl, rfl, rfl, rfl, rfl, State.reset_wRk_get⟩
  · rw [step_of_reset hr] at h
    cases h
    simp [State.cmdReady]

end Sys2Proof.Proofs

/-! SUPPORT. Proofs about the byte order of the ports (20_memory.md R52): first what a port word says of its bytes, then the
statement. -/

namespace Sys2Proof

/-- Reading a block off a port word takes byte n from the word's byte n (R52). -/
theorem byte_unpack (w : PortWord) : ∀ n < 16, (unpack w).byte n = wordByte w n :=
  Block.byte_ofBytes (wordByte w)

/-- Byte n of a packed block is its block byte n (R52): it is byte n of the block that `unpack` reads back. -/
theorem wordByte_pack (x : Block) (n : Nat) (hn : n < 16) : wordByte (pack x) n = x.byte n := by
  rw [← byte_unpack (pack x) n hn, unpack_pack]

/-- Bit i of a port word is bit i mod 8 of byte 15 - i div 8, counted from the most significant (R7, R52). -/
theorem getLsbD_eq_wordByte (w : PortWord) (i : Nat) (hi : i < 128) :
    w.getLsbD i = (wordByte w (15 - i / 8)).getLsbD (i % 8) := by
  have hpos : 120 - 8 * (15 - i / 8) + i % 8 = i := by omega
  have hbit : i % 8 < 8 := Nat.mod_lt i (by decide)
  simp [wordByte, hbit, hpos]

/-- Two port words with the same 16 bytes are the same. -/
theorem PortWord.eq_of_wordBytes {v w : PortWord} (h : ∀ n < 16, wordByte v n = wordByte w n) : v = w := by
  apply BitVec.eq_of_getLsbD_eq
  intro i hi
  rw [getLsbD_eq_wordByte v i hi, getLsbD_eq_wordByte w i hi, h _ (by omega)]

/-- Unpacking then packing gives the port word back (R52). -/
@[simp] theorem pack_unpack (w : PortWord) : pack (unpack w) = w := by
  apply PortWord.eq_of_wordBytes
  intro n hn
  rw [wordByte_pack (unpack w) n hn, byte_unpack w n hn]

end Sys2Proof

namespace Sys2Proof.Proofs

/-- Settles O49: `pack` and `unpack` agree with `wordByte`, which is R52's slice of the port word, and a port word is
determined by its 16 bytes. -/
theorem portsAreBigEndian : Obligations.PortsAreBigEndian :=
  ⟨wordByte_pack, byte_unpack, pack_unpack⟩

end Sys2Proof.Proofs

/-! SUPPORT. Proofs about the illegal words (30_encoding.md R75, 60_exceptions.md R241): first what the decoder answers in
each class of op values, then the edge that accepts an illegal word, then the statement. -/

namespace Sys2Proof

/-- The op values that no command has (R73). -/
def reservedOps : List Nibble := [0x0, 0xE, 0xF]

/-- The op values of the format-P commands, whose idx must be 0 (R71, R73). -/
def formatPOps : List Nibble := [0x1, 0x2, 0x3, 0x4, 0x5, 0x6, 0x7, 0x9, 0xA, 0xB, 0xC]

/-- The op values by their class (R73): reserved, format P, and the two of format I, KEXP and ARKI. -/
theorem op_classes : ∀ op : Nibble, op ∈ reservedOps ∨ op ∈ formatPOps ∨ op = 0x8 ∨ op = 0xD := by decide

/-- A format-P op is in no other class. -/
theorem not_other_class_of_formatP : ∀ op ∈ formatPOps, op ∉ reservedOps ∧ op ≠ 0x8 ∧ op ≠ 0xD := by decide

theorem decodeFields_of_reserved {op : Nibble} (h : op ∈ reservedOps) (idx : Nibble) :
    decodeFields op idx = .illegal (.reservedOp op) := by
  fin_cases h <;> rfl

theorem decodeFields_of_formatP {op : Nibble} (h : op ∈ formatPOps) (idx : Nibble) :
    ∃ i, decodeFields op idx = decodePlain i op idx := by
  fin_cases h <;> exact ⟨_, rfl⟩

theorem decodeFields_kexp (idx : Nibble) :
    decodeFields 0x8 idx = if idx.toNat ≤ 9 then .command (.kexp idx) else .illegal (.kexpIndex idx) := rfl

theorem decodeFields_arki (idx : Nibble) :
    decodeFields 0xD idx = if idx.toNat ≤ 10 then .command (.arki idx) else .illegal (.arkiIndex idx) := rfl

/-- A decoder's answer under a check of the index is illegal exactly when the check fails. -/
theorem exists_illegal_ite_iff {p : Prop} [Decidable p] (i : Instr) (why : IllegalWord) :
    (∃ r, (if p then .command i else .illegal why) = Decoded.illegal r) ↔ ¬ p := by
  by_cases hp : p <;> simp [hp]

/-- R75 on the two fields of the word. -/
theorem decodeFields_illegal_iff (op idx : Nibble) :
    (∃ why, decodeFields op idx = .illegal why) ↔
      (op ∈ reservedOps ∨ (op ∈ formatPOps ∧ idx ≠ 0) ∨
        (op = 0x8 ∧ 10 ≤ idx.toNat) ∨ (op = 0xD ∧ 11 ≤ idx.toNat)) := by
  obtain hop | hop | rfl | rfl := op_classes op
  · simp [decodeFields_of_reserved hop, hop]
  · obtain ⟨i, hi⟩ := decodeFields_of_formatP hop idx
    obtain ⟨hres, hkexp, harki⟩ := not_other_class_of_formatP op hop
    simp only [hi, decodePlain, exists_illegal_ite_iff, hop, hres, hkexp, harki, ne_eq, true_and, false_and,
      false_or, or_false]
  · rw [decodeFields_kexp, exists_illegal_ite_iff]
    simp [reservedOps, formatPOps, Nat.succ_le_iff]
  · rw [decodeFields_arki, exists_illegal_ite_iff]
    simp [reservedOps, formatPOps, Nat.succ_le_iff]

end Sys2Proof

namespace Sys2Proof.Machine

/-- Accepting an illegal word is IllegalCommand (R190, R241). -/
theorem acceptWord_of_illegal {cmd : BitVec 8} {why : IllegalWord} (h : decode cmd = .illegal why) (s : State) :
    acceptWord cmd s = .next (illegalCommand s) := by
  simp [acceptWord, h]

/-- The edge that accepts an illegal word takes IllegalCommand and nothing else (R241, R246). -/
theorem step_of_illegal {s : State} {why : IllegalWord} (hr : s.pins.rst = false) (hp : s.phase = .idle)
    (hv : s.pins.cmdValid = true) (hd : decode s.pins.cmd = .illegal why) :
    step s = .next (illegalCommand s).nextEdge := by
  rw [step_of_accept hr hp hv, acceptWord_of_illegal hd, finishEdge]

end Sys2Proof.Machine

namespace Sys2Proof.Proofs

open Sys2Proof.Machine

/-- Settles O4: the illegal words by the class of their op, and the edge that accepts one is `illegalCommand`. -/
theorem illegalWordsRaiseIllegalCommand : Obligations.IllegalWordsRaiseIllegalCommand := by
  refine ⟨fun w => decodeFields_illegal_iff (opField w) (idxField w), ?_⟩
  intro s why hr hp hv hd
  refine ⟨(illegalCommand s).nextEdge, step_of_illegal hr hp hv hd, rfl, ?_⟩
  simp [State.cmdReady, illegalCommand, hp]

end Sys2Proof.Proofs

/-! SUPPORT. Proofs about the tables (40_gf_tables.md R107). -/

namespace Sys2Proof.Proofs

open Sys2Proof.Machine

/-- Settles O52: the table's entries are those of `rconFormula` (`rcon_eq`), which doubles at each later entry by its own
recursion (R107). -/
theorem rconDoubles : Obligations.RconDoubles := by
  refine ⟨rcon_eq 0, fun i => ?_⟩
  calc rcon i.succ = rconFormula (i.val + 1) := rcon_eq i.succ
    _ = xtime (rconFormula i.val) := rfl
    _ = xtime (rcon i.castSucc) := congrArg xtime (rcon_eq i.castSucc).symm

end Sys2Proof.Proofs

/-! SUPPORT. Proofs about acceptance, LOAD and the microprograms (44_cipher_commands.md R190, R192, R193): first the state an
acceptance answers, the edge of a running command, and the index operands, then the statements. -/

namespace Sys2Proof.Machine

theorem loadsPorts_iff (i : Instr) : loadsPorts i = true ↔ i = .load ∨ i = .enc ∨ i = .dec := by
  cases i <;> simp [loadsPorts]

/-- The whole acceptance action of R190 on an IDLE core, field by field. The two tests of the pseudocode are independent:
whether the command has port operands, and whether its microprogram is empty. -/
theorem acceptCommand_eq {s : State} (h : s.phase = .idle) (i : Instr) :
    acceptCommand i s = { s with
      state := if loadsPorts i then unpack s.pins.blockIn else s.state, wState := loadsPorts i || s.wState,
      key := if loadsPorts i then unpack s.pins.keyIn else s.key, wKey := loadsPorts i || s.wKey,
      prog := i, upc := 0, done := decide (latency i = 0),
      phase := if latency i = 0 then .idle else .run } := by
  cases hp : loadsPorts i <;> by_cases hl : latency i = 0 <;>
    simp [acceptCommand, hp, hl, h, beginProgram, State.loadPorts, State.writeState, State.writeKey, State.flagDone,
      State.flagBusy]

/-- Accepting a legal word is the acceptance action of its command (R190). -/
theorem acceptWord_of_command {cmd : BitVec 8} {i : Instr} {s : State} (hp : s.phase = .idle)
    (hd : decode cmd = .command i) : acceptWord cmd s = .next (acceptCommand i s) := by
  simp only [acceptWord, hd, exec_of_wellFormed (wellFormed_of_decode hd), commandEdge_idle hp]

/-- The edge that accepts a legal word is the acceptance action and nothing else (R190, R246). -/
theorem step_of_command {s : State} {i : Instr} (hr : s.pins.rst = false) (hp : s.phase = .idle)
    (hv : s.pins.cmdValid = true) (hd : decode s.pins.cmd = .command i) :
    step s = .next (acceptCommand i s).nextEdge := by
  rw [step_of_accept hr hp hv, acceptWord_of_command hp hd, finishEdge]

/-- The running edge of any command leaves prog as it was (R191). An illegal index is no exception: IllegalCommand leaves the
sequencer alone. -/
theorem exec_run_prog {i : Instr} {s t : State} (hp : s.phase = .run) (h : exec i s = .next t) : t.prog = s.prog := by
  by_cases hw : i.WellFormed
  · obtain ⟨op, -, rfl⟩ := exec_run_next hw hp h
    split <;> simp
  · rw [exec_of_not_wellFormed hw] at h
    cases h
    rfl

/-- The index operand of every legal KEXP is its RCON index (R72). -/
theorem kexpIndex?_ofNat : ∀ i : Fin 10, kexpIndex? (BitVec.ofNat 4 i) = some i := by decide

/-- The index operand of every legal ARKI is its round-key number (R72). -/
theorem arkiIndex?_ofNat : ∀ j : Fin 11, arkiIndex? (BitVec.ofNat 4 j) = some j := by decide

theorem microprogram_kexp (i : Fin 10) : microprogram (.kexp (BitVec.ofNat 4 i)) = [.kexp i] := by
  simp [microprogram, kexpIndex?_ofNat]

theorem microprogram_arki (j : Fin 11) : microprogram (.arki (BitVec.ofNat 4 j)) = [.arki j] := by
  simp [microprogram, arkiIndex?_ofNat]

@[simp] theorem latency_load : latency .load = 0 := rfl
@[simp] theorem latency_ksched : latency .ksched = 10 := rfl
@[simp] theorem latency_enc : latency .enc = 50 := rfl
@[simp] theorem latency_dec : latency .dec = 50 := rfl

end Sys2Proof.Machine

namespace Sys2Proof.Proofs

open Sys2Proof.Machine

/-- Settles O14. What an acceptance edge answers is `illegalCommand` or `acceptCommand`, by the decoded word. At any other
edge a core that is then in RUN was so before, with the same prog, by the five things a step can do (R246): a reset edge
leaves it IDLE, and so does an edge at which nothing happens. -/
theorem acceptanceStartsTheMicroprogram : Obligations.AcceptanceStartsTheMicroprogram := by
  refine ⟨loadsPorts_iff, ?accepts, ?starts⟩
  case accepts =>
    intro s hr hp hv
    cases hd : decode s.pins.cmd with
    | illegal why => rw [step_of_illegal hr hp hv hd]; rfl
    | command i => rw [step_of_command hr hp hv hd, acceptCommand_eq hp]; rfl
  case starts =>
    intro s t h hno hrun
    obtain ⟨-, rfl⟩ | ⟨-, hp, u, hu, rfl⟩ | ⟨hr, hp, hv, -⟩ | ⟨hr, hp, hv, -⟩ | ⟨-, hp, -, rfl⟩ := step_next h
    · simp at hrun
    · have hprog := exec_run_prog hp hu
      exact ⟨hp, hprog⟩
    · exact absurd ⟨hr, hp, hv⟩ hno
    · exact absurd ⟨hr, hp, hv⟩ hno
    · simp [hp] at hrun

/-- Settles O15: the edge of LOAD on an IDLE core is its acceptance, and with port operands and an empty microprogram that
loads both registers and is done at once (R190, R193). -/
theorem loadLoadsStateAndKey : Obligations.LoadLoadsStateAndKey := by
  refine ⟨by decide, fun s hp => ?_⟩
  rw [exec_of_wellFormed rfl, commandEdge_idle hp, acceptCommand_eq hp]
  simp [loadsPorts, hp]

/-- Settles O20: the arms of `microprogram` are the rows of R192; only the two commands with an index compute theirs. -/
theorem microprogramsAreTheTable : Obligations.MicroprogramsAreTheTable :=
  ⟨rfl, rfl, rfl, rfl, rfl, rfl, rfl, rfl, microprogram_kexp, microprogram_arki, rfl, latency_ksched, rfl, latency_enc,
    rfl, latency_dec⟩

end Sys2Proof.Proofs

/-! SUPPORT. Proofs about the order of an edge's cases and about err (60_exceptions.md R242, R246): first that each
operation of the sequencer commutes with setting err, then the statements. -/

namespace Sys2Proof.Machine

/-- The same core with err = 1 (R30). -/
def State.withErr (s : State) : State := { s with err := true }

/-- The same outcome of an edge, with err = 1 in the next state if there is one. -/
def withErrNext : Host.Outcome State Fault Refusal → Host.Outcome State Fault Refusal
  | .next t => .next t.withErr
  | .fault f => .fault f
  | .refused r => .refused r

@[simp] theorem State.withErr_phase (s : State) : s.withErr.phase = s.phase := rfl
@[simp] theorem State.withErr_prog (s : State) : s.withErr.prog = s.prog := rfl
@[simp] theorem State.withErr_upc (s : State) : s.withErr.upc = s.upc := rfl
@[simp] theorem State.withErr_err (s : State) : s.withErr.err = true := rfl
@[simp] theorem State.withErr_pins (s : State) : s.withErr.pins = s.pins := rfl

@[simp] theorem withErrNext_next (t : State) : withErrNext (.next t) = .next t.withErr := rfl

/-- Setting err where it is set already changes nothing. -/
theorem State.withErr_of_err {s : State} (h : s.err = true) : s.withErr = s := by
  rw [State.withErr, ← h]

/-- IllegalCommand sets err, whatever it was (R241). -/
theorem illegalCommand_withErr (s : State) : illegalCommand s.withErr = (illegalCommand s).withErr := rfl

/-- A reset edge discards err (R270). -/
theorem resetEdge_withErr (s : State) : resetEdge s.withErr = resetEdge s := rfl

/-- Acceptance of a legal command takes err over and does not read it (R190). -/
theorem acceptCommand_withErr {s : State} (hp : s.phase = .idle) (i : Instr) :
    acceptCommand i s.withErr = (acceptCommand i s).withErr := by
  rw [acceptCommand_eq hp, acceptCommand_eq (s := s.withErr) hp]
  rfl

/-- A micro-operation takes err over and does not read it. -/
theorem execMicroOp_withErr (op : MicroOp) (s : State) : execMicroOp op s.withErr = (execMicroOp op s).withErr := by
  have h := execMicroOp_withControl s op s.phase s.prog s.upc s.done true s.inputs
  simpa [State.withErr] using h

/-- So does a micro-step (R191), which stops by the microprogram and upc alone. -/
theorem microStep_withErr (prog : List MicroOp) (s : State) :
    microStep prog s.withErr = withErrNext (microStep prog s) := by
  cases hop : prog[s.upc]? with
  | none => simp [microStep, hop, withErrNext]
  | some op =>
    rw [microStep_of_getElem? hop, microStep_of_getElem? (s := s.withErr) hop, execMicroOp_withErr, withErrNext_next,
      apply_ite State.withErr]
    rfl

/-- So does the edge of any command, legal or not (R190, R191, R241). -/
theorem exec_withErr (i : Instr) (s : State) : exec i s.withErr = withErrNext (exec i s) := by
  by_cases hw : i.WellFormed
  · simp only [exec_of_wellFormed hw]
    cases hp : s.phase with
    | idle =>
      rw [commandEdge_idle hp, commandEdge_idle (s := s.withErr) hp, acceptCommand_withErr hp, withErrNext_next]
    | run => rw [commandEdge_run hp, commandEdge_run (s := s.withErr) hp, microStep_withErr]
  · simp only [exec_of_not_wellFormed hw, illegalCommand_withErr, withErrNext_next]

/-- So does the acceptance of any word (R190, R241). -/
theorem acceptWord_withErr (cmd : BitVec 8) (s : State) : acceptWord cmd s.withErr = withErrNext (acceptWord cmd s) := by
  unfold acceptWord
  cases decode cmd with
  | command i => exact exec_withErr i s
  | illegal why => rfl

theorem finishEdge_withErrNext (o : Host.Outcome State Fault Refusal) :
    finishEdge (withErrNext o) = withErrNext (finishEdge o) := by
  cases o <;> rfl

/-- Every edge without reset takes err over and does not read it (R242): the three cases of R246 that are left. -/
theorem step_withErr_of_not_reset {s : State} (hr : s.pins.rst = false) :
    step s.withErr = withErrNext (step s) := by
  cases hp : s.phase with
  | run =>
    rw [step_of_run hr hp, step_of_run (s := s.withErr) hr hp, State.withErr_prog, exec_withErr, finishEdge_withErrNext]
  | idle =>
    cases hv : s.pins.cmdValid with
    | true =>
      rw [step_of_accept hr hp hv, step_of_accept (s := s.withErr) hr hp hv, State.withErr_pins, acceptWord_withErr,
        finishEdge_withErrNext]
    | false =>
      rw [step_of_quiet hr hp hv, step_of_quiet (s := s.withErr) hr hp hv]
      rfl

/-- A reset edge answers the same state whatever err was (R270). -/
theorem step_withErr_of_reset {s : State} (hr : s.pins.rst = true) : step s.withErr = step s := by
  rw [step_of_reset hr, step_of_reset (s := s.withErr) hr, resetEdge_withErr]

/-- What the edge of a core with err set answers, from what it answers with err as it is (R242, R270). -/
theorem step_withErr (s : State) : step s.withErr = if s.pins.rst then step s else withErrNext (step s) := by
  cases hr : s.pins.rst with
  | true => simp [step_withErr_of_reset hr]
  | false => simp [step_withErr_of_not_reset hr]

/-- No edge without reset clears err (R242): the edge is the same with err set again, so what it answers has err set. -/
theorem step_keeps_err {s t : State} (h : step s = .next t) (hr : s.pins.rst = false) (he : s.err = true) :
    t.err = true := by
  have hset := step_withErr_of_not_reset hr
  rw [State.withErr_of_err he, h, withErrNext_next, Host.Outcome.next.injEq] at hset
  rw [hset, State.withErr_err]

end Sys2Proof.Machine

namespace Sys2Proof.Proofs

open Sys2Proof.Machine

/-- Settles O11. `step_withErr` gives the edge with err set from the edge without; a reset edge is the one that
clears err. -/
theorem errIsStickyAndBlocksNothing : Obligations.ErrIsStickyAndBlocksNothing := by
  refine ⟨fun s t => step_keeps_err, ?sameNext, ?sameFault, ?resetClears⟩
  case sameNext => exact fun s t h => (step_withErr s).trans (by rw [h]; cases s.pins.rst <;> rfl)
  case sameFault => exact fun s f h => (step_withErr s).trans (by rw [h]; cases s.pins.rst <;> rfl)
  case resetClears =>
    intro s t h hr
    rw [step_of_reset hr] at h
    cases h
    rfl

/-- Settles O6: the cases of `edge` in R246's order, with the illegal word's acceptance written out (R241). -/
theorem edgePriority : Obligations.EdgePriority := fun _ =>
  ⟨step_of_reset, step_of_run, step_of_accept, fun hr hp hv _ hd => step_of_illegal hr hp hv hd, step_of_quiet⟩

end Sys2Proof.Proofs

/-! SUPPORT. Proofs about reset and the sampling of the pins (70_reset_and_hazards.md R270, R276): first which parts of an
edge read the pins, then the statements. -/

namespace Sys2Proof.Machine

/-- The same core with the levels `p` at the pins of the next edge; the host's later samples stay. -/
def State.withPins (s : State) (p : PortIn) : State := { s with inputs := p :: s.inputs.tail }

section
variable (s : State) (p : PortIn)

@[simp] theorem State.withPins_pins : (s.withPins p).pins = p := rfl
@[simp] theorem State.withPins_phase : (s.withPins p).phase = s.phase := rfl
@[simp] theorem State.withPins_prog : (s.withPins p).prog = s.prog := rfl
@[simp] theorem State.withPins_upc : (s.withPins p).upc = s.upc := rfl

/-- The levels that were at the pins are gone after the edge. -/
@[simp] theorem State.withPins_nextEdge : (s.withPins p).nextEdge = s.nextEdge := rfl

/-- A reset edge samples none of the other pins (R270). -/
theorem resetEdge_withPins : resetEdge (s.withPins p) = (resetEdge s).withPins p := rfl

/-- IllegalCommand samples no operand (R246). -/
theorem illegalCommand_withPins : illegalCommand (s.withPins p) = (illegalCommand s).withPins p := rfl

/-- A micro-operation samples no pin (R276). -/
theorem execMicroOp_withPins (op : MicroOp) : execMicroOp op (s.withPins p) = (execMicroOp op s).withPins p := by
  have h := execMicroOp_withControl s op s.phase s.prog s.upc s.done s.err (p :: s.inputs.tail)
  simpa [State.withPins] using h

/-- Nor does a micro-step (R191): its completion and its stop depend on the microprogram and upc alone. -/
theorem finishEdge_microStep_withPins (prog : List MicroOp) :
    finishEdge (microStep prog (s.withPins p)) = finishEdge (microStep prog s) := by
  cases hop : prog[s.upc]? with
  | none => simp [microStep, hop]
  | some op =>
    rw [microStep_of_getElem? hop, microStep_of_getElem? (s := s.withPins p) hop, execMicroOp_withPins,
      State.withPins_upc]
    split <;> rfl

end

/-- The running edge of any command, legal or not, samples no pin (R191, R276). -/
theorem finishEdge_exec_withPins {s : State} (hp : s.phase = .run) (p : PortIn) (i : Instr) :
    finishEdge (exec i (s.withPins p)) = finishEdge (exec i s) := by
  by_cases hw : i.WellFormed
  · rw [exec_of_wellFormed hw, exec_of_wellFormed hw, commandEdge_run hp, commandEdge_run (s := s.withPins p) hp,
      finishEdge_microStep_withPins]
  · rw [exec_of_not_wellFormed hw, exec_of_not_wellFormed hw, illegalCommand_withPins]
    rfl

/-- The acceptance of a command without port operands samples neither key_in nor block_in (R190, R276). -/
theorem acceptCommand_withPins {s : State} {i : Instr} (hp : s.phase = .idle) (hl : loadsPorts i = false) (p : PortIn) :
    acceptCommand i (s.withPins p) = (acceptCommand i s).withPins p := by
  rw [acceptCommand_eq hp, acceptCommand_eq (s := s.withPins p) hp, hl]
  rfl

/-- A reset edge is the same for all levels of the other pins (R270). -/
theorem step_withPins_of_reset {s : State} {p : PortIn} (hs : s.pins.rst = true) (hp : p.rst = true) :
    step (s.withPins p) = step s := by
  rw [step_of_reset hs, step_of_reset (s := s.withPins p) hp, resetEdge_withPins, State.withPins_nextEdge]

/-- So is the edge of a busy core (R276). -/
theorem step_withPins_of_run {s : State} {p : PortIn} (hs : s.pins.rst = false) (hp : p.rst = false)
    (hrun : s.phase = .run) : step (s.withPins p) = step s := by
  rw [step_of_run hs hrun, step_of_run (s := s.withPins p) hp hrun, State.withPins_prog, finishEdge_exec_withPins hrun]

/-- So is the edge of an idle core to which no command is presented (R276). -/
theorem step_withPins_of_quiet {s : State} {p : PortIn} (hs : s.pins.rst = false) (hp : p.rst = false)
    (hidle : s.phase = .idle) (hvs : s.pins.cmdValid = false) (hvp : p.cmdValid = false) :
    step (s.withPins p) = step s := by
  rw [step_of_quiet hs hidle hvs, step_of_quiet (s := s.withPins p) hp hidle hvp, State.withPins_nextEdge]

/-- An acceptance edge samples the word, and nothing else when the word is no command with port operands (R276). -/
theorem step_withPins_of_accept {s : State} {p : PortIn} (hs : s.pins.rst = false) (hp : p.rst = false)
    (hidle : s.phase = .idle) (hvs : s.pins.cmdValid = true) (hvp : p.cmdValid = true) (hcmd : p.cmd = s.pins.cmd)
    (hl : ∀ i, decode s.pins.cmd = .command i → loadsPorts i = false) : step (s.withPins p) = step s := by
  cases hd : decode s.pins.cmd with
  | illegal why =>
    have hdp : decode (s.withPins p).pins.cmd = .illegal why := by rw [State.withPins_pins, hcmd, hd]
    rw [step_of_illegal hs hidle hvs hd, step_of_illegal (s := s.withPins p) hp hidle hvp hdp, illegalCommand_withPins,
      State.withPins_nextEdge]
  | command i =>
    have hdp : decode (s.withPins p).pins.cmd = .command i := by rw [State.withPins_pins, hcmd, hd]
    rw [step_of_command hs hidle hvs hd, step_of_command (s := s.withPins p) hp hidle hvp hdp,
      acceptCommand_withPins hidle (hl i hd), State.withPins_nextEdge]

/-- An edge that accepts no word, under the old levels or the new, samples nothing but rst (R276). -/
theorem step_withPins_of_no_acceptance {s : State} {p : PortIn} (hrst : p.rst = s.pins.rst)
    (h : s.pins.rst = true ∨ s.phase = .run ∨ (s.pins.cmdValid = false ∧ p.cmdValid = false)) :
    step (s.withPins p) = step s := by
  cases hs : s.pins.rst with
  | true => exact step_withPins_of_reset hs (hrst.trans hs)
  | false =>
    cases hph : s.phase with
    | run => exact step_withPins_of_run hs (hrst.trans hs) hph
    | idle =>
      obtain ⟨hvs, hvp⟩ : s.pins.cmdValid = false ∧ p.cmdValid = false := by simpa [hs, hph] using h
      exact step_withPins_of_quiet hs (hrst.trans hs) hph hvs hvp

/-- key_in and block_in make no difference unless the word is a command with port operands (R276). -/
theorem step_withOperands {s : State} (k b : PortWord)
    (hl : ∀ i, decode s.pins.cmd = .command i → loadsPorts i = false) :
    step (s.withPins { s.pins with keyIn := k, blockIn := b }) = step s := by
  by_cases h : s.pins.rst = true ∨ s.phase = .run ∨ s.pins.cmdValid = false
  · exact step_withPins_of_no_acceptance rfl (h.imp_right (.imp_right fun hv => ⟨hv, hv⟩))
  · obtain ⟨hs, hrun, hv⟩ : s.pins.rst = false ∧ s.phase ≠ .run ∧ s.pins.cmdValid = true := by simpa using h
    cases hph : s.phase with
    | run => exact absurd hph hrun
    | idle => exact step_withPins_of_accept hs hs hph hv hv rfl hl

end Sys2Proof.Machine

namespace Sys2Proof.Proofs

open Sys2Proof.Machine

/-- Settles O9: an edge that accepts nothing samples rst alone, an acceptance samples key_in and block_in only for a command
that loads the ports, and a reset edge acts in every state. -/
theorem inputsSampledOnlyAtAcceptance : Obligations.InputsSampledOnlyAtAcceptance := by
  refine ⟨fun s p => step_withPins_of_no_acceptance, ?operands, ?reset⟩
  case operands =>
    intro s k b h
    refine step_withOperands k b fun i hd => ?_
    obtain ⟨hload, henc, hdec⟩ := h i hd
    rw [Bool.eq_false_iff, Ne, loadsPorts_iff]
    simp [hload, henc, hdec]
  case reset =>
    intro s t hr h
    rw [step_of_reset hr] at h
    cases h
    exact ⟨rfl, rfl, rfl⟩

/-- Settles O7: the state that a reset edge answers is `resetEdge`, which takes nothing from the pins. -/
theorem resetEdgeClears : Obligations.ResetEdgeClears := fun s hr =>
  ⟨⟨(resetEdge s).nextEdge, step_of_reset hr, rfl, rfl, rfl, rfl, rfl, State.reset_wRk_get⟩,
    fun _ => step_withPins_of_reset hr⟩

end Sys2Proof.Proofs

/-! SUPPORT. Proofs about decoding and encoding (30_encoding.md R70 to R74): first that the two fields of a word determine
it, then what the decoder answers on the fields of a command, then the statements. -/

namespace Sys2Proof

/-- A word is its op field followed by its idx field (R70). -/
theorem opField_append_idxField (w : BitVec 8) : opField w ++ idxField w = w := by
  apply BitVec.eq_of_getLsbD_eq
  intro n hn
  simp only [opField, idxField, BitVec.getLsbD_append, BitVec.getLsbD_extractLsb']
  by_cases hlow : n < 4
  · simp [hlow]
  · have hhigh : n - 4 < 4 := by omega
    simp [hlow, hhigh, show 4 + (n - 4) = n by omega]

/-- The encoder puts op and index where R70 says: the statement made per instruction, for all of them. -/
theorem encodedFields (i : Instr) : Laws.EncodedFields.Statement i := by
  cases i with
  | enc => exact Laws.EncodedFields.enc
  | dec => exact Laws.EncodedFields.dec
  | load => exact Laws.EncodedFields.load
  | ark => exact Laws.EncodedFields.ark
  | sub => exact Laws.EncodedFields.sub
  | shr => exact Laws.EncodedFields.shr
  | mix => exact Laws.EncodedFields.mix
  | kexp i => exact Laws.EncodedFields.kexp i
  | isub => exact Laws.EncodedFields.isub
  | ishr => exact Laws.EncodedFields.ishr
  | imix => exact Laws.EncodedFields.imix
  | ksched => exact Laws.EncodedFields.ksched
  | arki j => exact Laws.EncodedFields.arki j

/-- The decoder answers a legal command from its own op and index (R73, R74). -/
theorem decodeFields_opcode_index {i : Instr} (h : i.WellFormed) : decodeFields i.opcode i.index = .command i := by
  cases i with
  | kexp n => exact (decodeFields_kexp n).trans (if_pos (of_decide_eq_true h))
  | arki j => exact (decodeFields_arki j).trans (if_pos (of_decide_eq_true h))
  | _ => rfl

/-- A format-P decoder that answers a command has read idx 0 (R71). -/
theorem decodePlain_eq_command {i i' : Instr} {op idx : Nibble} (h : decodePlain i op idx = .command i') :
    i' = i ∧ idx = 0 := by
  unfold decodePlain at h
  split at h
  · cases h; exact ⟨rfl, ‹_›⟩
  · cases h

/-- A format-P op that decodes to a command is that command's op (R71, R73). -/
theorem fields_of_decode_formatP {op idx : Nibble} {i : Instr} (hop : op ∈ formatPOps)
    (h : decodeFields op idx = .command i) : i.opcode = op ∧ i.index = idx := by
  fin_cases hop <;> (obtain ⟨rfl, rfl⟩ := decodePlain_eq_command h; exact ⟨rfl, rfl⟩)

/-- The fields that decode to a command are the command's own (R73, R74), by the class of the op. -/
theorem fields_of_decodeFields {op idx : Nibble} {i : Instr} (h : decodeFields op idx = .command i) :
    i.opcode = op ∧ i.index = idx := by
  obtain hop | hop | rfl | rfl := op_classes op
  · rw [decodeFields_of_reserved hop] at h; cases h
  · exact fields_of_decode_formatP hop h
  · rw [decodeFields_kexp] at h
    split at h <;> cases h
    exact ⟨rfl, rfl⟩
  · rw [decodeFields_arki] at h
    split at h <;> cases h
    exact ⟨rfl, rfl⟩

end Sys2Proof

namespace Sys2Proof.Proofs

/-- Settles O2: the encoder puts op and index in the fields the decoder reads, so decoding is `decodeFields` on the command's
own op and index. -/
theorem decodeOfEncodeIsTheCommand : Obligations.DecodeOfEncodeIsTheCommand := by
  intro i hw
  obtain ⟨hop, hidx⟩ := encodedFields i
  rw [decode, hop, hidx, decodeFields_opcode_index hw]

/-- Settles O3: a legal word's fields are its command's, and a word is determined by its fields. -/
theorem legalWordHasOneCommand : Obligations.LegalWordHasOneCommand := by
  intro w i h
  refine ⟨Machine.wellFormed_of_decode h, ?_⟩
  obtain ⟨hop, hidx⟩ := fields_of_decodeFields h
  rw [encode, hop, hidx, opField_append_idxField]

/-- Settles O1: eighteen closed instances of the decoder, each computed (R73, DV9). -/
theorem listedWordsDecodeAsWritten : Obligations.ListedWordsDecodeAsWritten := by
  unfold Obligations.ListedWordsDecodeAsWritten
  decide

end Sys2Proof.Proofs

/-! SUPPORT. Proofs about the sequencer (10_state.md R25, R28; 44_cipher_commands.md R191; 60_exceptions.md R244): first the
running edge and the acceptance as functions to the next state, then the record of unwritten reads, then the statements. -/

namespace Sys2Proof.Machine

/-! ## The running edge -/

/-- What a micro-step of command `i` at the operation `op` leaves: completion after the last one, else upc + 1 (R191). -/
def microNext (i : Instr) (op : MicroOp) (s : State) : State :=
  if s.upc + 1 = latency i then completeCommand (execMicroOp op s) else { execMicroOp op s with upc := s.upc + 1 }

/-- The edge of a running legal command (R191). -/
theorem exec_run {i : Instr} {s : State} {op : MicroOp} (hw : i.WellFormed) (hp : s.phase = .run)
    (hop : (microprogram i)[s.upc]? = some op) : exec i s = .next (microNext i op s) := by
  rw [exec_of_wellFormed hw, commandEdge_run hp, microStep_of_getElem? hop]
  rfl

/-- A command that has a micro-operation is legal: an illegal index has no microprogram (R75, R192). -/
theorem wellFormed_of_microprogram {i : Instr} {op : MicroOp} (h : op ∈ microprogram i) : i.WellFormed := by
  cases i with
  | kexp n =>
    by_cases hn : n.toNat < 10
    · exact decide_eq_true (Nat.le_of_lt_succ hn)
    · simp [microprogram, kexpIndex?, hn] at h
  | arki j =>
    by_cases hj : j.toNat < 11
    · exact decide_eq_true (Nat.le_of_lt_succ hj)
    · simp [microprogram, arkiIndex?, hj] at h
  | _ => rfl

/-- An edge with rst = 0 in RUN, at a micro-operation of the running command (R191, R246). -/
theorem step_of_microOp {s : State} {op : MicroOp} (hr : s.pins.rst = false) (hp : s.phase = .run)
    (hop : (microprogram s.prog)[s.upc]? = some op) : step s = .next (microNext s.prog op s).nextEdge := by
  rw [step_of_run hr hp, exec_run (wellFormed_of_microprogram (List.mem_of_getElem? hop)) hp hop, finishEdge]

section
variable (i : Instr) (op : MicroOp) (s : State)

@[simp] theorem microNext_prog : (microNext i op s).prog = s.prog := by
  unfold microNext; split <;> simp

@[simp] theorem microNext_faulted :
    (microNext i op s).faulted = s.faulted.or (s.firstUnwritten op.reads) := by
  unfold microNext; split <;> simp

/-- The data registers after a micro-step are those after its micro-operation. -/
theorem microNext_data :
    (microNext i op s).state = (op.apply s).state ∧ (microNext i op s).key = (op.apply s).key ∧
      (microNext i op s).rk = (op.apply s).rk ∧ (microNext i op s).wState = (op.apply s).wState ∧
      (microNext i op s).wKey = (op.apply s).wKey ∧ (microNext i op s).wRk = (op.apply s).wRk := by
  unfold microNext; split <;> exact ⟨rfl, rfl, rfl, rfl, rfl, rfl⟩

/-- Acceptance reads no register (R244). -/
@[simp] theorem acceptCommand_faulted : (acceptCommand i s).faulted = s.faulted := by
  by_cases hl : latency i = 0 <;> cases hp : loadsPorts i <;> simp [acceptCommand, hl, hp]

@[simp] theorem acceptCommand_prog : (acceptCommand i s).prog = i := by
  by_cases hl : latency i = 0 <;> cases hp : loadsPorts i <;> simp [acceptCommand, hl, hp]

@[simp] theorem acceptCommand_upc : (acceptCommand i s).upc = 0 := by
  by_cases hl : latency i = 0 <;> cases hp : loadsPorts i <;> simp [acceptCommand, hl, hp]

/-- RUN follows the acceptance of a command with a non-empty microprogram (R190). -/
theorem acceptCommand_phase {s : State} (hp : s.phase = .idle) :
    (acceptCommand i s).phase = if latency i = 0 then .idle else .run := by
  rw [acceptCommand_eq hp]

end

/-! ## The record of unwritten reads -/

/-- In RUN with rst = 0 the model fault is the first unwritten register of the micro-operation at upc (R244). -/
theorem unwrittenFault_of_run {s : State} {op : MicroOp} (hr : s.pins.rst = false) (hp : s.phase = .run)
    (hop : (microprogram s.prog)[s.upc]? = some op) : unwrittenFault s = s.firstUnwritten op.reads := by
  simp [unwrittenFault, hr, hp, hop]

/-- A reset edge and an edge in IDLE read no register (R244). -/
theorem unwrittenFault_of_not_running {s : State} (h : s.pins.rst = true ∨ s.phase = .idle) : unwrittenFault s = none := by
  obtain hr | hp := h
  · simp [unwrittenFault, hr]
  · simp [unwrittenFault, hp]

theorem checkedStep_of_some {s : State} {r : DataReg} (h : unwrittenFault s = some r) : checkedStep s = .error r := by
  simp [checkedStep, h]

theorem checkedStep_of_none {s : State} (h : unwrittenFault s = none) : checkedStep s = .ok (step s) := by
  simp [checkedStep, h]

/-- An edge in IDLE with rst = 0 answers a next state and records nothing, whatever the word (R190, R241, R244). -/
theorem step_idle_faulted {s : State} (hr : s.pins.rst = false) (hp : s.phase = .idle) :
    ∃ t, step s = .next t ∧ t.faulted = s.faulted := by
  cases hv : s.pins.cmdValid with
  | false => exact ⟨_, step_of_quiet hr hp hv, rfl⟩
  | true =>
    cases hd : decode s.pins.cmd with
    | illegal why => exact ⟨_, step_of_illegal hr hp hv hd, rfl⟩
    | command i => exact ⟨_, step_of_command hr hp hv hd, acceptCommand_faulted i s⟩

/-! ## The invariant of the sequencer -/

/-- Acceptance of a legal command starts the sequencer inside its microprogram, with done = 0 while it runs (R190). -/
theorem acceptCommand_invariant {s : State} {i : Instr} (hw : i.WellFormed) (hp : s.phase = .idle) :
    Invariant (acceptCommand i s) where
  sequencer hrun := by
    have hlen : latency i ≠ 0 := fun hl => by simp [acceptCommand_phase i hp, hl] at hrun
    simpa using ⟨hw, Nat.pos_of_ne_zero hlen⟩
  busy hrun := by
    have hlen : latency i ≠ 0 := fun hl => by simp [acceptCommand_phase i hp, hl] at hrun
    simp [hlen]

/-- A micro-step keeps upc inside the microprogram, or leaves RUN (R191). -/
theorem microNext_invariant {s : State} {op : MicroOp} (h : Invariant s) (hp : s.phase = .run) :
    Invariant (microNext s.prog op s) := by
  obtain ⟨hw, hupc⟩ := h.sequencer hp
  have hdone := h.busy hp
  unfold microNext
  split
  case isTrue => exact ⟨fun hrun => by simp at hrun, fun hrun => by simp at hrun⟩
  case isFalse hlast => exact ⟨fun _ => by simpa using ⟨hw, by omega⟩, fun _ => by simpa using hdone⟩

/-- The invariant says nothing of the pins. -/
theorem nextEdge_invariant {s : State} (h : Invariant s) : Invariant s.nextEdge := ⟨h.sequencer, h.busy⟩

/-- In IDLE the invariant asks nothing. -/
theorem invariant_of_idle {s : State} (h : s.phase = .idle) : Invariant s :=
  ⟨fun hrun => by simp [h] at hrun, fun hrun => by simp [h] at hrun⟩

end Sys2Proof.Machine

namespace Sys2Proof.Proofs

open Sys2Proof.Machine

/-- Settles O42, by the five things a step can do (R246): a micro-step and an acceptance keep the invariant, and every other
edge answers an IDLE state. -/
theorem sequencerInvariantKeptByStep : Obligations.SequencerInvariantKeptByStep := by
  intro s t hs h
  obtain ⟨-, rfl⟩ | ⟨-, hp, u, hu, rfl⟩ | ⟨-, hp, -, i, hw, -, rfl⟩ | ⟨-, hp, -, -, rfl⟩ | ⟨-, hp, -, rfl⟩ := step_next h
  · exact invariant_of_idle rfl
  · obtain ⟨op, -, rfl⟩ := exec_run_next (hs.sequencer hp).1 hp hu
    exact nextEdge_invariant (microNext_invariant hs hp)
  · exact nextEdge_invariant (acceptCommand_invariant hw hp)
  · exact invariant_of_idle hp
  · exact invariant_of_idle hp

/-- Settles O43: the state after reset is IDLE, where the invariant asks nothing. -/
theorem sequencerInvariantAtReset : Obligations.SequencerInvariantAtReset := invariant_of_idle rfl

/-- Settles O16: the running edge is `microNext`, and the fault of R244's model is `unwrittenFault`. -/
theorem microStepExecutesTheOperationAtUpc : Obligations.MicroStepExecutesTheOperationAtUpc := by
  refine ⟨fun i s op hw hp hop => ?_, fun s hr hp => ⟨step_of_run hr hp, fun op r hop hfault => ?_⟩⟩
  · rw [exec_run hw hp hop, microNext]
    simp [completeCommand, State.flagDone, execMicroOp, State.noteUnwritten]
  · exact checkedStep_of_some ((unwrittenFault_of_run hr hp hop).trans hfault)

/-- Settles O17: an edge reads registers only in RUN with rst = 0, and there `unwrittenFault` and `faulted` take the first
unwritten one; the other edges record nothing or clear the record (R244). -/
theorem unwrittenReadFaultsWhenChecked : Obligations.UnwrittenReadFaultsWhenChecked := by
  refine ⟨⟨rfl, by decide, fun _ => rfl, fun _ => rfl, fun _ => rfl⟩, ?unwritten, ?written, ?idle, ?reset⟩
  case unwritten =>
    intro s op r hr hp hop hfirst
    have hfault : s.firstUnwritten op.reads = some r := hfirst
    refine ⟨checkedStep_of_some ((unwrittenFault_of_run hr hp hop).trans hfault), _, step_of_microOp hr hp hop, ?_⟩
    simp [hfault]
  case written =>
    intro s op hr hp hop hread
    have hnone : s.firstUnwritten op.reads = none := firstUnwritten_of_mayRead hread
    refine ⟨checkedStep_of_none ((unwrittenFault_of_run hr hp hop).trans hnone), _, step_of_microOp hr hp hop, ?_⟩
    simp [hnone]
  case idle =>
    exact fun s hr hp => ⟨checkedStep_of_none (unwrittenFault_of_not_running (.inr hp)), step_idle_faulted hr hp⟩
  case reset =>
    exact fun s hr => ⟨checkedStep_of_none (unwrittenFault_of_not_running (.inl hr)), _, step_of_reset hr, rfl⟩

/-- Settles O18: past the microprogram there is no micro-operation to execute (log entry 10). -/
theorem runWithoutMicroOperationStops : Obligations.RunWithoutMicroOperationStops := by
  intro i s hw hp hupc
  have hnone : (microprogram i)[s.upc]? = none := List.getElem?_eq_none hupc
  rw [exec_of_wellFormed hw, commandEdge_run hp, microStep, hnone]

/-- Settles O19: a command term with an illegal index is not well formed, and raises IllegalCommand (log entry 11). -/
theorem illegalIndexRaisesIllegalCommand : Obligations.IllegalIndexRaisesIllegalCommand := by
  refine fun i s => ⟨fun hi => exec_of_not_wellFormed ?_ s, fun hi => exec_of_not_wellFormed ?_ s⟩
  · simp [Instr.WellFormed, Instr.wellFormed, hi]
  · simp [Instr.WellFormed, Instr.wellFormed, hi]

/-- Settles O5: the acceptance of a word that decodes to `i` is `exec i` (R190). -/
theorem stepRunsTheDecodedCommand : Obligations.StepRunsTheDecodedCommand := by
  intro s i hr hp hv hd
  rw [step_of_accept hr hp hv, acceptWord, hd]

/-- Settles O10: both output ports are wires (R27, R28). -/
theorem outputPortsAreWires : Obligations.OutputPortsAreWires :=
  fun s => ⟨decide_eq_true_iff, fun hw => by simp [State.blockOut, State.readState, hw]⟩

end Sys2Proof.Proofs

/-! SUPPORT. Proofs about the stage commands (41_forward_stages.md, 42_inverse_stages.md, 43_key_schedule.md): first the edge
of a command that writes one register, what a column-wise map and the key expansion do to a cell, and RK after KS j, then
the statements. -/

namespace Sys2Proof

/-- A column-wise map acts on each column by itself. -/
theorem Block.col_mapColumns (f : Column → Column) (x : Block) (c : Nat) : (x.mapColumns f).col c = f (x.col c) := by
  unfold Block.col
  split <;> rfl

end Sys2Proof

namespace Sys2Proof.Machine

/-- The running edge of a command whose one micro-operation writes STATE: the new STATE, the record of the unwritten read,
completion, and nothing else. -/
theorem exec_of_single_writeState {i : Instr} {op : MicroOp} {s : State} (hw : i.WellFormed) (hm : microprogram i = [op])
    (hp : s.phase = .run) (hu : s.upc = 0) (v : Block) (hv : op.apply s = s.writeState v) :
    ∃ t, exec i s = .next t ∧ t.state = v ∧
      t = { s with state := t.state, wState := true, phase := .idle, done := true,
                     faulted := s.faulted.or (s.firstUnwritten op.reads) } := by
  refine ⟨_, exec_of_single hw hm hp hu, ?_, ?_⟩
  · rw [execMicroOp, hv]; rfl
  · rw [execMicroOp, hv]; rfl

/-- The same for a command whose one micro-operation writes KEY. -/
theorem exec_of_single_writeKey {i : Instr} {op : MicroOp} {s : State} (hw : i.WellFormed) (hm : microprogram i = [op])
    (hp : s.phase = .run) (hu : s.upc = 0) (v : Block) (hv : op.apply s = s.writeKey v) :
    ∃ t, exec i s = .next t ∧ t.key = v ∧
      t = { s with key := t.key, wKey := true, phase := .idle, done := true,
                     faulted := s.faulted.or (s.firstUnwritten op.reads) } := by
  refine ⟨_, exec_of_single hw hm hp hu, ?_, ?_⟩
  · rw [execMicroOp, hv]; rfl
  · rw [execMicroOp, hv]; rfl

theorem wellFormed_arki : ∀ j : Fin 11, (Instr.arki (BitVec.ofNat 4 j)).WellFormed := by decide

theorem wellFormed_kexp : ∀ i : Fin 10, (Instr.kexp (BitVec.ofNat 4 i)).WellFormed := by decide

theorem encode_arki : ∀ j : Fin 11, encode (.arki (BitVec.ofNat 4 j)) = BitVec.ofNat 8 (0xD0 + j) := by decide

theorem encode_kexp : ∀ i : Fin 10, encode (.kexp (BitVec.ofNat 4 i)) = BitVec.ofNat 8 (0x80 + i) := by decide

/-- ISHR puts the byte of column c into column c + r (R151): from there the rotation of the definition leads back to c. -/
theorem cell_invShiftRows (x : Block) {r c : Nat} (hr : r < 4) (hc : c < 4) :
    (invShiftRows x).cell r ((c + r) % 4) = x.cell r c := by
  rw [invShiftRows, Block.cell_ofCells _ r hr _ (Nat.mod_lt _ (by decide)), show ((c + r) % 4 + 4 - r) % 4 = c by omega]

/-- Column 0 of the key expansion adds the schedule word (R170). -/
theorem kexp_cell_zero (k : Block) (i : Fin 10) {r : Nat} (hr : r < 4) :
    (kexp k i).cell r 0 = k.cell r 0 ^^^ (scheduleWord k i).row r := by
  interval_cases r <;> rfl

/-- Every later column adds the new column to its left (R170). -/
theorem kexp_cell_succ (k : Block) (i : Fin 10) {r c : Nat} (hr : r < 4) (hc : c < 3) :
    (kexp k i).cell r (c + 1) = k.cell r (c + 1) ^^^ (kexp k i).cell r c := by
  interval_cases r <;> interval_cases c <;> rfl

/-! ## RK after KS j -/

/-- An entry of a vector after a write: the written value at its index, the old one elsewhere. -/
theorem vector_get_set {α : Type} {n : Nat} (v : Vector α n) (j m : Fin n) (a : α) :
    (v.set j a).get m = if m = j then a else v.get m := by
  rw [Vector.get_eq_getElem, Vector.get_eq_getElem, Vector.getElem_set]
  simp [Fin.ext_iff, eq_comm]

/-- RK after KS j, entry by entry (R173). -/
theorem scheduleStep_rk_get (j : Fin 10) (s : State) (m : Fin 11) :
    (scheduleStep j s).rk.get m =
      if m = j.succ then kexp s.readKey j else if j = 0 ∧ m = 0 then s.readKey else s.rk.get m := by
  rw [scheduleStep_rk, vector_get_set]
  by_cases hj : j = 0
  · rw [if_pos hj, vector_get_set]; simp [hj]
  · simp [hj]

/-- The ghost bits of RK after KS j (R32, R173). -/
theorem scheduleStep_wRk_get (j : Fin 10) (s : State) (m : Fin 11) :
    (scheduleStep j s).wRk.get m = if m = j.succ then true else if j = 0 ∧ m = 0 then true else s.wRk.get m := by
  rw [scheduleStep_wRk, vector_get_set]
  by_cases hj : j = 0
  · rw [if_pos hj, vector_get_set]; simp [hj]
  · simp [hj]

/-- KS j writes KEY and RK with their ghost bits, and nothing else (R173). -/
theorem scheduleStep_frame (j : Fin 10) (s : State) :
    scheduleStep j s = { s with
      key := (scheduleStep j s).key, wKey := true, rk := (scheduleStep j s).rk, wRk := (scheduleStep j s).wRk } := by
  unfold scheduleStep
  split <;> rfl

theorem execMicroOp_ks_frame (j : Fin 10) (s : State) :
    execMicroOp (.ks j) s = { s with
      key := (scheduleStep j s).key, wKey := true, rk := (scheduleStep j s).rk, wRk := (scheduleStep j s).wRk,
      faulted := s.faulted.or (s.firstUnwritten [.key]) } := by
  rw [execMicroOp, MicroOp.apply, scheduleStep_frame]
  rfl

/-- Micro-step j of KSCHED and of DEC is KS j (R174, R197). -/
theorem microprogram_schedule (j : Fin 10) {i : Instr} (hi : i = .ksched ∨ i = .dec) :
    (microprogram i)[j.val]? = some (.ks j) := by
  obtain rfl | rfl := hi <;> revert j <;> decide

/-- KS j is the last micro-step of KSCHED for j = 9, and never of DEC. -/
theorem schedule_last_iff (j : Fin 10) {i : Instr} (hi : i = .ksched ∨ i = .dec) :
    j.val + 1 = latency i ↔ i = .ksched ∧ j = 9 := by
  obtain rfl | rfl := hi <;> revert j <;> decide

end Sys2Proof.Machine

namespace Sys2Proof.Proofs

open Sys2Proof.Machine

/-- Settles O22: the micro-operation of ARK writes STATE ⊕ KEY (R130). -/
theorem arkAddsKeyToState : Obligations.ArkAddsKeyToState := by
  refine ⟨by decide, fun s hp hu => ?_⟩
  obtain ⟨t, ht, hstate, hframe⟩ := exec_of_single_writeState (i := .ark) rfl rfl hp hu _ rfl
  exact ⟨t, ht, hstate ▸ Block.byte_xor _ _, hframe⟩

/-- Settles O23: the micro-operation of SUB maps SBOX over STATE (R131). -/
theorem subSubstitutesEveryByte : Obligations.SubSubstitutesEveryByte := by
  refine ⟨by decide, fun s hp hu => ?_⟩
  obtain ⟨t, ht, hstate, hframe⟩ := exec_of_single_writeState (i := .sub) rfl rfl hp hu _ rfl
  exact ⟨t, ht, hstate ▸ Block.byte_map _ _, hframe⟩

/-- Settles O24: the micro-operation of SHR is given cell by cell (R132). -/
theorem shrRotatesRowsLeft : Obligations.ShrRotatesRowsLeft := by
  refine ⟨by decide, fun s hp hu => ?_⟩
  obtain ⟨t, ht, hstate, hframe⟩ := exec_of_single_writeState (i := .shr) rfl rfl hp hu _ rfl
  exact ⟨t, ht, hstate ▸ Block.cell_ofCells _, hframe⟩

/-- Settles O25: the micro-operation of MIX maps `mixColumn` over the columns (R133). -/
theorem mixCombinesEachColumn : Obligations.MixCombinesEachColumn := by
  refine ⟨by decide, fun s hp hu => ?_⟩
  obtain ⟨t, ht, hstate, hframe⟩ := exec_of_single_writeState (i := .mix) rfl rfl hp hu _ rfl
  refine ⟨t, ht, ?_, hframe⟩
  rintro c - a b x d rfl rfl rfl rfl
  simp only [hstate, Block.cell, mixColumns, Block.col_mapColumns]
  exact ⟨rfl, rfl, rfl, rfl⟩

/-- Settles O26: the micro-operation of ISUB maps INV_SBOX over STATE (R150). -/
theorem isubSubstitutesEveryByte : Obligations.IsubSubstitutesEveryByte := by
  refine ⟨by decide, fun s hp hu => ?_⟩
  obtain ⟨t, ht, hstate, hframe⟩ := exec_of_single_writeState (i := .isub) rfl rfl hp hu _ rfl
  exact ⟨t, ht, hstate ▸ Block.byte_map _ _, hframe⟩

/-- Settles O27: the micro-operation of ISHR moves column c of row r to column c + r (R151). -/
theorem ishrRotatesRowsRight : Obligations.IshrRotatesRowsRight := by
  refine ⟨by decide, fun s hp hu => ?_⟩
  obtain ⟨t, ht, hstate, hframe⟩ := exec_of_single_writeState (i := .ishr) rfl rfl hp hu _ rfl
  exact ⟨t, ht, fun r hr c hc => hstate ▸ cell_invShiftRows _ hr hc, hframe⟩

/-- Settles O28: the micro-operation of IMIX maps `invMixColumn` over the columns (R152). -/
theorem imixCombinesEachColumn : Obligations.ImixCombinesEachColumn := by
  refine ⟨by decide, fun s hp hu => ?_⟩
  obtain ⟨t, ht, hstate, hframe⟩ := exec_of_single_writeState (i := .imix) rfl rfl hp hu _ rfl
  refine ⟨t, ht, ?_, hframe⟩
  rintro c - a b x d rfl rfl rfl rfl
  simp only [hstate, Block.cell, invMixColumns, Block.col_mapColumns]
  exact ⟨rfl, rfl, rfl, rfl⟩

/-- Settles O29: the micro-operation of ARKI j writes STATE ⊕ RK[j] (R153). -/
theorem arkiAddsStoredRoundKey : Obligations.ArkiAddsStoredRoundKey := by
  refine fun j s => ⟨encode_arki j, fun hp hu => ?_⟩
  obtain ⟨t, ht, hstate, hframe⟩ :=
    exec_of_single_writeState (wellFormed_arki j) (microprogram_arki j) hp hu _ rfl
  exact ⟨t, ht, hstate ▸ Block.byte_xor _ _, hframe⟩

/-- Settles O30: the micro-operation of KEXP i writes `kexp` of KEY, whose schedule word is the `w` of the statement
(R170, R172). -/
theorem kexpAdvancesKey : Obligations.KexpAdvancesKey := by
  refine fun i s => ⟨encode_kexp i, fun hp hu => ?_⟩
  obtain ⟨t, ht, hkey, hframe⟩ :=
    exec_of_single_writeKey (wellFormed_kexp i) (microprogram_kexp i) hp hu _ rfl
  refine ⟨t, (scheduleWord s.readKey i).row, ht, rfl, rfl, rfl, rfl, ?_, ?_, hframe⟩
  · exact fun r hr => hkey ▸ kexp_cell_zero s.readKey i hr
  · exact fun r hr c hc => hkey ▸ kexp_cell_succ s.readKey i hr hc

/-- Settles O31: micro-step j of KSCHED and DEC is KS j, whose RK is given entry by entry (R173). -/
theorem scheduleStepExtendsTheSchedule : Obligations.ScheduleStepExtendsTheSchedule := by
  intro i j s hi hp hu
  have hop : (microprogram i)[s.upc]? = some (.ks j) := by rw [hu]; exact microprogram_schedule j hi
  have hlast : s.upc + 1 = latency i ↔ i = .ksched ∧ j = 9 := by rw [hu]; exact schedule_last_iff j hi
  have hw := wellFormed_of_microprogram (List.mem_of_getElem? hop)
  obtain ⟨-, hkey, hrk, -, -, hwRk⟩ := microNext_data i (.ks j) s
  refine ⟨microNext i (.ks j) s, exec_run hw hp hop, hkey, ?succ, ?wSucc, ?zero, ?others, ?frame⟩
  case succ => rw [hrk]; exact (scheduleStep_rk_get j s _).trans (if_pos rfl)
  case wSucc => rw [hwRk]; exact (scheduleStep_wRk_get j s _).trans (if_pos rfl)
  case zero =>
    rintro rfl
    rw [hrk, hwRk]
    exact ⟨scheduleStep_rk_get 0 s 0, scheduleStep_wRk_get 0 s 0⟩
  case others =>
    intro m hm h0
    rw [hrk, hwRk]
    exact ⟨(scheduleStep_rk_get j s m).trans (by simp [hm, h0]), (scheduleStep_wRk_get j s m).trans (by simp [hm, h0])⟩
  case frame =>
    rw [hkey, hrk, hwRk, microNext, execMicroOp_ks_frame]
    by_cases hl : i = .ksched ∧ j = 9
    · rw [if_pos (hlast.2 hl), if_pos hl, if_pos hl, if_pos hl]; rfl
    · rw [if_neg (hl ∘ hlast.1), if_neg hl, if_neg hl, if_neg hl, ← hp]; rfl

end Sys2Proof.Proofs

/-! SUPPORT. Proofs about whole commands (44_cipher_commands.md R190, R191, R200; 70_reset_and_hazards.md R281): first where
n micro-steps of a running command lead, then the edges from the acceptance on, then the statements. -/

namespace Sys2Proof.Machine

/-! ## n micro-steps of a running command -/

/-- The core after `n` micro-steps of command `i` from `s` in RUN (R191): the next `n` micro-operations have run, and the
command has completed if they were its last. -/
def afterMicroSteps (i : Instr) (n : Nat) (s : State) : State :=
  { execMicroOps (((microprogram i).drop s.upc).take n) s with
    upc := if s.upc + n = latency i then latency i - 1 else s.upc + n,
    phase := if s.upc + n = latency i then .idle else .run,
    done := if s.upc + n = latency i then true else s.done }

section
variable (i : Instr) (n : Nat) (s : State)

@[simp] theorem afterMicroSteps_phase :
    (afterMicroSteps i n s).phase = if s.upc + n = latency i then .idle else .run := rfl
@[simp] theorem afterMicroSteps_done :
    (afterMicroSteps i n s).done = if s.upc + n = latency i then true else s.done := rfl

@[simp] theorem microNext_inputs (op : MicroOp) : (microNext i op s).inputs = s.inputs := by
  unfold microNext; split <;> simp

end

/-- No micro-step is no change in RUN. -/
theorem afterMicroSteps_zero {i : Instr} {s : State} (hp : s.phase = .run) (hu : s.upc < latency i) :
    afterMicroSteps i 0 s = s := by
  simp [afterMicroSteps, Nat.ne_of_lt hu, execMicroOps, ← hp]

/-- A list of micro-operations takes upc and the inputs to come over and does not read them. -/
theorem execMicroOps_withUpcInputs (ops : List MicroOp) (s : State) (u : Nat) (ins : List PortIn) :
    execMicroOps ops { s with upc := u, inputs := ins } = { execMicroOps ops s with upc := u, inputs := ins } := by
  have hctl := execMicroOps_withControl ops s s.phase s.prog u s.done s.err ins
  obtain ⟨hphase, hprog, -, hdone, herr, -⟩ := execMicroOps_frame ops s
  simpa [hphase, hprog, hdone, herr] using hctl

/-- The pins make no difference to micro-steps (R276). -/
theorem afterMicroSteps_withInputs (i : Instr) (n : Nat) (s : State) (ins : List PortIn) :
    afterMicroSteps i n { s with inputs := ins } = { afterMicroSteps i n s with inputs := ins } := by
  unfold afterMicroSteps
  rw [execMicroOps_withUpcInputs _ s s.upc ins]

/-- What is left of a microprogram begins with the operation at upc. -/
theorem drop_eq_cons_of_getElem? {prog : List MicroOp} {n : Nat} {op : MicroOp} (h : prog[n]? = some op) :
    prog.drop n = op :: prog.drop (n + 1) := by
  rw [List.drop_eq_getElem?_toList_append, h]
  rfl

/-- The one micro-step left completes the command. -/
theorem afterMicroSteps_last {i : Instr} {s : State} {op : MicroOp} (hop : (microprogram i)[s.upc]? = some op)
    (hu : s.upc + 1 = latency i) : afterMicroSteps i 1 s = microNext i op s := by
  unfold afterMicroSteps microNext
  rw [drop_eq_cons_of_getElem? hop]
  simp [execMicroOps, completeCommand, State.flagDone, ← hu]

/-- A first micro-step that is not the last, then `n` more. -/
theorem afterMicroSteps_succ {i : Instr} {s : State} {op : MicroOp} (hop : (microprogram i)[s.upc]? = some op)
    (hu : s.upc + 1 ≠ latency i) (n : Nat) :
    afterMicroSteps i (n + 1) s = afterMicroSteps i n (microNext i op s) := by
  have hsum : s.upc + (n + 1) = s.upc + 1 + n := by omega
  unfold afterMicroSteps
  have hctl := execMicroOps_withUpcInputs (((microprogram i).drop (s.upc + 1)).take n) (execMicroOp op s) (s.upc + 1)
    (execMicroOp op s).inputs
  obtain ⟨-, -, -, -, -, hinputs, -⟩ := execMicroOps_frame (((microprogram i).drop (s.upc + 1)).take n) (execMicroOp op s)
  rw [drop_eq_cons_of_getElem? hop, hsum, microNext, if_neg hu, hctl, ← hinputs]
  simp only [List.take_succ_cons, execMicroOps, execMicroOp_done]

/-! ## The same as edges -/

/-- Below the length of its microprogram a command has a micro-operation at upc. -/
theorem exists_microOp {i : Instr} {s : State} (h : s.upc < latency i) :
    ∃ op, (microprogram i)[s.upc]? = some op :=
  ⟨_, List.getElem?_eq_getElem h⟩

theorem microNext_run {i : Instr} {op : MicroOp} {s : State} (hp : s.phase = .run) (hu : s.upc + 1 ≠ latency i) :
    (microNext i op s).phase = .run ∧ (microNext i op s).upc = s.upc + 1 := by
  rw [microNext, if_neg hu]
  exact ⟨by simp [hp], rfl⟩

/-- `n` edges of a running command (R191). -/
theorem execEdges_run {i : Instr} (hw : i.WellFormed) (n : Nat) {s : State} (hp : s.phase = .run)
    (hu : s.upc < latency i) (hn : s.upc + n ≤ latency i) : execEdges i n s = .next (afterMicroSteps i n s) := by
  induction n generalizing s with
  | zero => rw [afterMicroSteps_zero hp hu, execEdges]
  | succ n ih =>
    obtain ⟨op, hop⟩ := exists_microOp hu
    simp only [execEdges, exec_run hw hp hop]
    by_cases hlast : s.upc + 1 = latency i
    · obtain rfl : n = 0 := by omega
      rw [afterMicroSteps_last hop hlast, execEdges]
    · obtain ⟨hp', hu'⟩ := microNext_run (op := op) hp hlast
      rw [afterMicroSteps_succ hop hlast, ih hp' (by omega) (by omega)]

/-- rst is 0 at the pins where no sample has it 1, and where there is no sample left. -/
theorem pins_rst_of_forall {s : State} (h : ∀ p ∈ s.inputs.take 1, p.rst = false) : s.pins.rst = false := by
  unfold State.pins
  cases hin : s.inputs with
  | nil => rfl
  | cons p ps => exact h p (by simp [hin])

/-- rst is 0 at the next edge of a host that holds it at 0. -/
theorem noResetFor_pins {n : Nat} {s : State} (h : NoResetFor (n + 1) s) : s.pins.rst = false :=
  pins_rst_of_forall fun p hp => h p (List.take_subset_take_left _ (by omega) hp)

/-- And it stays 0 for the edges after that one. -/
theorem noResetFor_tail {n : Nat} {s t : State} (h : NoResetFor (n + 1) s) (ht : t.inputs = s.inputs.tail) :
    NoResetFor n t := by
  intro p hp
  rw [ht] at hp
  apply h
  cases hin : s.inputs with
  | nil => simp [hin] at hp
  | cons q qs => simpa [hin] using .inr (by simpa [hin] using hp)

/-- `n` edges of a running core with rst = 0, whatever else is at the pins (R191, R276). -/
theorem steps_run (n : Nat) {s : State} (hp : s.phase = .run) (hu : s.upc < latency s.prog)
    (hn : s.upc + n ≤ latency s.prog) (hr : NoResetFor n s) :
    steps n s = .next { afterMicroSteps s.prog n s with inputs := s.inputs.drop n } := by
  induction n generalizing s with
  | zero => rw [afterMicroSteps_zero hp hu, steps]; rfl
  | succ n ih =>
    obtain ⟨op, hop⟩ := exists_microOp hu
    simp only [steps, step_of_microOp (noResetFor_pins hr) hp hop]
    by_cases hlast : s.upc + 1 = latency s.prog
    · obtain rfl : n = 0 := by omega
      rw [afterMicroSteps_last hop hlast, steps, State.nextEdge, microNext_inputs, List.drop_one]
    · obtain ⟨hp', hu'⟩ := microNext_run (op := op) hp hlast
      have hprog : (microNext s.prog op s).nextEdge.prog = s.prog := microNext_prog s.prog op s
      have hinputs : (microNext s.prog op s).nextEdge.inputs = s.inputs.tail := by simp
      have hupc : (microNext s.prog op s).nextEdge.upc = s.upc + 1 := hu'
      have hrest := ih (s := (microNext s.prog op s).nextEdge) hp' (by rw [hprog, hupc]; omega)
        (by rw [hprog, hupc]; omega) (noResetFor_tail hr hinputs)
      rw [hrest, hprog, afterMicroSteps_succ hop hlast, State.nextEdge, afterMicroSteps_withInputs, microNext_inputs,
        List.drop_tail]

/-! ## From the acceptance on -/

/-- LOAD is the one legal command with an empty microprogram (R192). -/
theorem eq_load_of_latency_zero {i : Instr} (hw : i.WellFormed) (h : latency i = 0) : i = .load := by
  cases i with
  | load => rfl
  | kexp n =>
    have hn : n.toNat < 10 := Nat.lt_succ_of_le (of_decide_eq_true hw)
    simp [latency, microprogram, kexpIndex?, hn] at h
  | arki j =>
    have hj : j.toNat < 11 := Nat.lt_succ_of_le (of_decide_eq_true hw)
    simp [latency, microprogram, arkiIndex?, hj] at h
  | _ => exact absurd h (by decide)

/-- Acceptance of a command with a non-empty microprogram: RUN at upc 0, on the loaded registers (R190). -/
theorem acceptCommand_of_latency_ne_zero {i : Instr} (hl : latency i ≠ 0) {s l : State}
    (hload : (if loadsPorts i then s.loadPorts else s) = l) :
    acceptCommand i s =
      { l with phase := .run, prog := i, upc := 0, done := false, err := l.err, inputs := l.inputs } := by
  rw [acceptCommand, hload, if_neg hl]
  rfl

/-- All micro-steps of an accepted command lead to the end of its atomic transition (R200). -/
theorem afterMicroSteps_acceptCommand {i : Instr} (hw : i.WellFormed) (s : State) (hl : latency i ≠ 0) :
    afterMicroSteps i (latency i) (acceptCommand i s) = command i s := by
  have htake : ((microprogram i).drop 0).take (latency i) = microprogram i := by simp [latency]
  rw [command, if_pos hw]
  generalize hload : (if loadsPorts i then s.loadPorts else s) = l
  obtain ⟨-, -, -, -, herr, hinputs, -⟩ := execMicroOps_frame (microprogram i) l
  rw [acceptCommand_of_latency_ne_zero hl hload, afterMicroSteps, htake, execMicroOps_withControl, ← herr, ← hinputs]
  simp only [Nat.zero_add]
  rfl

theorem acceptCommand_load {s : State} (hp : s.phase = .idle) : acceptCommand .load s = command .load s := by
  rw [acceptCommand_eq hp]
  rfl

@[simp] theorem acceptCommand_inputs (i : Instr) (s : State) : (acceptCommand i s).inputs = s.inputs := by
  by_cases hl : latency i = 0 <;> cases hp : loadsPorts i <;> simp [acceptCommand, hl, hp]

/-- Where the core was IDLE, the end of an atomic transition sets prog, upc and done alone (R200, log entry 9). -/
theorem settleCommand_eq {s : State} (hp : s.phase = .idle) (i : Instr) :
    settleCommand i s = { s with prog := i, upc := latency i - 1, done := true } := by
  rw [settleCommand, completeCommand, State.flagDone, ← hp]

theorem execEdges_succ_of_next {i : Instr} {s t : State} (h : exec i s = .next t) (n : Nat) :
    execEdges i (n + 1) s = execEdges i n t := by
  simp [execEdges, h]

theorem steps_one {s t : State} (h : step s = .next t) : steps 1 s = .next t := by
  simp [steps, h]

/-- `n` edges from the acceptance of a running command on: the acceptance, then n - 1 micro-steps (R190, R191). -/
theorem steps_succ_of_command {s : State} {i : Instr} {n : Nat} (hp : s.phase = .idle) (hv : s.pins.cmdValid = true)
    (hd : decode s.pins.cmd = .command i) (hr : NoResetFor (n + 1) s) (hl : latency i ≠ 0) (hn : n ≤ latency i) :
    steps (n + 1) s =
      .next { afterMicroSteps i n (acceptCommand i s) with inputs := s.inputs.drop (n + 1) } := by
  have hrun : (acceptCommand i s).nextEdge.phase = .run := by simp [acceptCommand_phase i hp, hl]
  have hprog : (acceptCommand i s).nextEdge.prog = i := by simp
  have hupc : (acceptCommand i s).nextEdge.upc = 0 := by simp
  have hinputs : (acceptCommand i s).nextEdge.inputs = s.inputs.tail := by simp
  simp only [steps, step_of_command (noResetFor_pins hr) hp hv hd]
  rw [steps_run n hrun (by rw [hupc, hprog]; omega) (by rw [hupc, hprog]; omega) (noResetFor_tail hr hinputs), hprog,
    hinputs, List.drop_tail, State.nextEdge, afterMicroSteps_withInputs]

/-! ## What ENC and DEC read -/

/-- A micro-step whose registers have been written: the effect, and completion or upc + 1 (R191). -/
theorem microNext_of_mayRead {i : Instr} {op : MicroOp} {s : State} (h : MayRead s op.reads) :
    microNext i op s = if s.upc + 1 = latency i then { op.apply s with phase := .idle, done := true }
      else { op.apply s with upc := s.upc + 1 } := by
  rw [microNext, execMicroOp_of_mayRead h]
  rfl

theorem encProg_reads : ∀ op ∈ encProg, ∀ r ∈ op.reads, r = .state ∨ r = .key := by decide

/-- The first ten operations of DEC are the schedule (R197). -/
theorem decProg_reads_schedule : ∀ n < 10, ∀ op, decProg[n]? = some op → ∀ r ∈ op.reads, r = .state ∨ r = .key := by
  intro n hn op hop
  have hks : op = .ks ⟨n, hn⟩ :=
    Option.some.inj (hop.symm.trans (microprogram_schedule ⟨n, hn⟩ (i := .dec) (.inr rfl)))
  simp [hks, MicroOp.reads]

theorem mayRead_of_state_key {s : State} {rs : List DataReg} (hs : s.wState = true) (hk : s.wKey = true)
    (h : ∀ r ∈ rs, r = .state ∨ r = .key) : MayRead s rs := by
  intro r hr
  obtain rfl | rfl := h r hr
  · exact hs
  · exact hk

theorem written_of_all {s : State} (hs : s.wState = true) (hk : s.wKey = true) (hrk : ∀ j, s.wRk.get j = true)
    (r : DataReg) : s.written r = true := by
  cases r with
  | state => exact hs
  | key => exact hk
  | rk j => exact hrk j

end Sys2Proof.Machine

namespace Sys2Proof.Proofs

open Sys2Proof.Machine

/-- Settles O40: the acceptance and `latency i` micro-steps are the whole microprogram on the loaded registers, which is the
atomic transition; LOAD alone has no micro-step (R200). -/
theorem runReachesTheCommandLevelState : Obligations.RunReachesTheCommandLevelState := by
  intro s i hp hv hd hr
  have hw := wellFormed_of_decode hd
  by_cases hl : latency i = 0
  · obtain rfl := eq_load_of_latency_zero hw hl
    rw [latency_load, steps_one (step_of_command (noResetFor_pins hr) hp hv hd), State.nextEdge, acceptCommand_inputs,
      acceptCommand_load hp, List.drop_one]
  · rw [steps_succ_of_command hp hv hd hr hl le_rfl, afterMicroSteps_acceptCommand hw s hl]

/-- Settles O41: after edge n of a command, n - 1 of its micro-steps have run, and done and cmd_ready are both 1 exactly when
those are all (R281). -/
theorem busyForExactlyTheLatency : Obligations.BusyForExactlyTheLatency := by
  intro s i n hp hv hd hr hn hle
  obtain ⟨n, rfl⟩ := Nat.exists_eq_add_of_le' hn
  by_cases hl : latency i = 0
  · obtain rfl : n = 0 := by omega
    refine ⟨_, steps_one (step_of_command (noResetFor_pins hr) hp hv hd), ?_, ?_⟩
    · simp [State.cmdReady, acceptCommand_phase i hp, hl]
    · simp [hl]
  · have hr' : NoResetFor (n + 1) s := fun p hmem => hr p (List.take_subset_take_left _ hle hmem)
    refine ⟨_, steps_succ_of_command hp hv hd hr' hl (by omega), ?_, ?_⟩
    · by_cases hlast : n = latency i <;> simp [State.cmdReady, hlast]
    · by_cases hlast : n = latency i <;> simp [hlast, hl]

/-- Settles O33: the registers that ENC's operations read are STATE and KEY, so with both written the micro-step records
nothing (R195, R199). -/
theorem encExecutesEncProg : Obligations.EncExecutesEncProg := by
  intro s op hp hop hws hwk
  have hread : MayRead s op.reads := mayRead_of_state_key hws hwk (encProg_reads op (List.mem_of_getElem? hop))
  rw [exec_run (i := .enc) rfl hp hop, microNext_of_mayRead hread]
  simp

/-- Settles O34: before upc 10 DEC's operations read KEY alone, and from there on all registers have been written
(R197, R199). -/
theorem decExecutesDecProg : Obligations.DecExecutesDecProg := by
  intro s op hp hop hws hwk hrk
  have hread : MayRead s op.reads := by
    by_cases hu : s.upc < 10
    · exact mayRead_of_state_key hws hwk (decProg_reads_schedule s.upc hu op hop)
    · exact fun r _ => written_of_all hws hwk (hrk (Nat.le_of_not_lt hu)) r
  rw [exec_run (i := .dec) rfl hp hop, microNext_of_mayRead hread]
  simp

end Sys2Proof.Proofs

/-! SUPPORT. Proofs about the key schedule (43_key_schedule.md R171, R174): first RK after each KS of the schedule, then the
whole KSCHED. -/

namespace Sys2Proof.Machine

theorem execMicroOps_append (xs ys : List MicroOp) (s : State) :
    execMicroOps (xs ++ ys) s = execMicroOps ys (execMicroOps xs s) := by
  induction xs generalizing s with
  | nil => rfl
  | cons op xs ih => exact ih (execMicroOp op s)

/-- Round key j + 1 is the expansion of round key j (R171). -/
theorem roundKey_succ (k : Block) (j : Fin 10) : roundKey k j.succ = kexp (roundKey k j.castSucc) j := rfl

@[simp] theorem roundKey_zero (k : Block) : roundKey k 0 = k := rfl

/-- `s` once the schedule of the key `k` has got to round key `n`: KEY is it, and RK holds it and those before (R174). -/
def State.scheduled (s : State) (k : Block) (n : Fin 11) : State :=
  { s with
    key := roundKey k n, wKey := true,
    rk := Vector.ofFn fun m => if m ≤ n then roundKey k m else s.rk.get m,
    wRk := Vector.ofFn fun m => decide (m ≤ n) || s.wRk.get m }

/-- A vector is determined by its entries, read with `get`. -/
theorem vector_ext_get {α : Type} {n : Nat} {v w : Vector α n} (h : ∀ m, v.get m = w.get m) : v = w := by
  ext m hm
  simpa [Vector.get_eq_getElem] using h ⟨m, hm⟩

@[simp] theorem vector_get_ofFn {α : Type} {n : Nat} (f : Fin n → α) (m : Fin n) : (Vector.ofFn f).get m = f m := by
  simp [Vector.get_eq_getElem]

@[simp] theorem vector_get_replicate {α : Type} {n : Nat} (a : α) (m : Fin n) : (Vector.replicate n a).get m = a := by
  simp [Vector.get_eq_getElem]

/-- At the end of the schedule RK holds all round keys. -/
theorem State.scheduled_ten (s : State) (k : Block) :
    s.scheduled k 10 = { s with
      key := roundKey k 10, wKey := true, rk := Vector.ofFn (roundKey k), wRk := Vector.replicate 11 true } := by
  have hle : ∀ m : Fin 11, m ≤ 10 := by decide
  have hwRk : (Vector.ofFn fun _ : Fin 11 => true) = Vector.replicate 11 true := vector_ext_get fun m => by simp
  simp [State.scheduled, hle, hwRk]

section
variable (s : State) (k : Block) (n m : Fin 11)

@[simp] theorem State.scheduled_rk_get :
    (s.scheduled k n).rk.get m = if m ≤ n then roundKey k m else s.rk.get m := by
  simp [State.scheduled]

@[simp] theorem State.scheduled_wRk_get :
    (s.scheduled k n).wRk.get m = (decide (m ≤ n) || s.wRk.get m) := by
  simp [State.scheduled]

@[simp] theorem State.scheduled_readKey : (s.scheduled k n).readKey = roundKey k n := rfl

end

/-- The entries up to j + 1 are the entry j + 1 and those up to j. -/
theorem le_succ_iff_eq_or_le {n : Nat} (j : Fin n) (m : Fin (n + 1)) : m ≤ j.succ ↔ m = j.succ ∨ m ≤ j.castSucc := by
  simp only [Fin.le_def, Fin.ext_iff, Fin.val_succ, Fin.val_castSucc]
  omega

/-- KS j takes the schedule from round key j to round key j + 1 (R173, R174). -/
theorem execMicroOp_ks_scheduled (s : State) (k : Block) (j : Fin 10) :
    execMicroOp (.ks j) (s.scheduled k j.castSucc) = s.scheduled k j.succ := by
  have hrk : (scheduleStep j (s.scheduled k j.castSucc)).rk =
      Vector.ofFn fun m => if m ≤ j.succ then roundKey k m else s.rk.get m :=
    vector_ext_get fun m => by
      rw [vector_get_ofFn, scheduleStep_rk_get]
      by_cases hm : m = j.succ
      · simp [hm, roundKey_succ]
      · by_cases h0 : j = 0 ∧ m = 0 <;> simp [hm, h0, le_succ_iff_eq_or_le]
  have hwRk : (scheduleStep j (s.scheduled k j.castSucc)).wRk =
      Vector.ofFn fun m => decide (m ≤ j.succ) || s.wRk.get m :=
    vector_ext_get fun m => by
      rw [vector_get_ofFn, scheduleStep_wRk_get]
      by_cases hm : m = j.succ
      · simp [hm]
      · by_cases h0 : j = 0 ∧ m = 0 <;> simp [hm, h0, le_succ_iff_eq_or_le]
  have hread : (s.scheduled k j.castSucc).firstUnwritten [.key] = none := rfl
  rw [execMicroOp_ks_frame, hrk, hwRk, hread, scheduleStep_key, State.scheduled_readKey, ← roundKey_succ, Option.or_none]
  rfl

/-- KS 0 does to `s` what it does once `scheduled` at 0 has written KEY and RK[0]: it reads KEY and writes both. -/
theorem scheduleStep_zero_scheduled (s : State) :
    scheduleStep 0 (s.scheduled s.readKey 0) = scheduleStep 0 s := by
  have hrk : (scheduleStep 0 (s.scheduled s.readKey 0)).rk = (scheduleStep 0 s).rk := vector_ext_get fun m => by
    by_cases h0 : m = 0 <;> simp [scheduleStep_rk_get, h0]
  have hwRk : (scheduleStep 0 (s.scheduled s.readKey 0)).wRk = (scheduleStep 0 s).wRk := vector_ext_get fun m => by
    by_cases h0 : m = 0 <;> simp [scheduleStep_wRk_get, h0]
  rw [scheduleStep_frame, hrk, hwRk, scheduleStep_frame 0 s]
  rfl

/-- KS 0 begins the schedule of the key that KEY reads as, and records the read if it is unwritten. -/
theorem execMicroOp_ks_zero (s : State) :
    execMicroOp (.ks 0) s =
      State.scheduled { s with faulted := s.faulted.or (s.firstUnwritten [.key]) } s.readKey 1 := by
  have hread : MayRead (s.scheduled s.readKey 0) (MicroOp.ks 0).reads := by
    simp [MayRead, MicroOp.reads, State.written, State.scheduled]
  have hnext : scheduleStep 0 s = s.scheduled s.readKey 1 :=
    calc scheduleStep 0 s = (MicroOp.ks 0).apply (s.scheduled s.readKey 0) := (scheduleStep_zero_scheduled s).symm
      _ = execMicroOp (.ks 0) (s.scheduled s.readKey 0) := (execMicroOp_of_mayRead hread).symm
      _ = s.scheduled s.readKey 1 := execMicroOp_ks_scheduled s s.readKey 0
  rw [execMicroOp, MicroOp.apply, hnext]
  rfl

/-- KS 0 to KS n leave the schedule at round key n + 1 (R174). -/
theorem execMicroOps_take_kschedProg (s : State) (n : Nat) (hn : n < 10) :
    execMicroOps (kschedProg.take (n + 1)) s =
      State.scheduled { s with faulted := s.faulted.or (s.firstUnwritten [.key]) } s.readKey ⟨n + 1, by omega⟩ := by
  induction n with
  | zero => exact execMicroOp_ks_zero s
  | succ n ih =>
    have hop : kschedProg[n + 1]? = some (.ks ⟨n + 1, hn⟩) := microprogram_schedule ⟨n + 1, hn⟩ (i := .ksched) (.inl rfl)
    rw [List.take_add_one, hop, execMicroOps_append, ih (by omega)]
    exact execMicroOp_ks_scheduled _ s.readKey ⟨n + 1, hn⟩

/-- The whole schedule: all round keys of the key that KEY reads as, K10 left in KEY (R174). -/
theorem execMicroOps_kschedProg (s : State) :
    execMicroOps kschedProg s = { s with
      key := roundKey s.readKey 10, wKey := true, rk := Vector.ofFn (roundKey s.readKey),
      wRk := Vector.replicate 11 true, faulted := s.faulted.or (s.firstUnwritten [.key]) } :=
  (execMicroOps_take_kschedProg s 9 (by decide)).trans (State.scheduled_ten _ _)

end Sys2Proof.Machine

namespace Sys2Proof.Proofs

open Sys2Proof.Machine

/-- Settles O32: the acceptance of KSCHED and its ten micro-steps are its atomic transition, which runs the schedule
(R174, R200). -/
theorem kschedBuildsTheWholeSchedule : Obligations.KschedBuildsTheWholeSchedule := by
  intro s hp
  have hl : latency .ksched ≠ 0 := by decide
  have hrun : (acceptCommand .ksched s).phase = .run := acceptCommand_phase .ksched hp
  have hmicro : execEdges .ksched 10 (acceptCommand .ksched s) =
      .next (afterMicroSteps .ksched (latency .ksched) (acceptCommand .ksched s)) :=
    execEdges_run rfl 10 hrun (by simp) (by simp)
  have haccept : exec .ksched s = .next (acceptCommand .ksched s) :=
    (exec_of_wellFormed rfl s).trans (commandEdge_idle hp .ksched)
  have hcommand : command .ksched s = settleCommand .ksched (execMicroOps kschedProg s) := rfl
  rw [execEdges_succ_of_next haccept, hmicro, afterMicroSteps_acceptCommand rfl s hl, hcommand,
    execMicroOps_kschedProg, settleCommand_eq (by exact hp)]
  rfl

end Sys2Proof.Proofs

/-! SUPPORT. Proofs about ENC and DEC (44_cipher_commands.md R194 to R199): first what each operation does to a core whose
STATE and KEY are loaded, then the rounds, the two microprograms, and the statements. -/

namespace Sys2Proof.Machine

/-! ## Operations on loaded registers -/

/-- `s` with `x` written to STATE and `k` to KEY. -/
def State.loaded (s : State) (x k : Block) : State := (s.writeState x).writeKey k

section
variable (s : State) (x k : Block)

/-- An operation that reads STATE and KEY alone records nothing on loaded registers (R244). -/
theorem execMicroOp_loaded {op : MicroOp} (h : ∀ r ∈ op.reads, r = .state ∨ r = .key) :
    execMicroOp op (s.loaded x k) = op.apply (s.loaded x k) :=
  execMicroOp_of_mayRead (mayRead_of_state_key rfl rfl h)

theorem execMicroOp_ark_loaded : execMicroOp .ark (s.loaded x k) = s.loaded (addRoundKey x k) k :=
  execMicroOp_loaded s x k (by decide)
theorem execMicroOp_sub_loaded : execMicroOp .sub (s.loaded x k) = s.loaded (subBytes x) k :=
  execMicroOp_loaded s x k (by decide)
theorem execMicroOp_shr_loaded : execMicroOp .shr (s.loaded x k) = s.loaded (shiftRows x) k :=
  execMicroOp_loaded s x k (by decide)
theorem execMicroOp_mix_loaded : execMicroOp .mix (s.loaded x k) = s.loaded (mixColumns x) k :=
  execMicroOp_loaded s x k (by decide)
theorem execMicroOp_isub_loaded : execMicroOp .isub (s.loaded x k) = s.loaded (invSubBytes x) k :=
  execMicroOp_loaded s x k (by decide)
theorem execMicroOp_ishr_loaded : execMicroOp .ishr (s.loaded x k) = s.loaded (invShiftRows x) k :=
  execMicroOp_loaded s x k (by decide)
theorem execMicroOp_imix_loaded : execMicroOp .imix (s.loaded x k) = s.loaded (invMixColumns x) k :=
  execMicroOp_loaded s x k (by decide)
theorem execMicroOp_kexp_loaded (i : Fin 10) : execMicroOp (.kexp i) (s.loaded x k) = s.loaded x (kexp k i) :=
  execMicroOp_loaded s x k (by simp [MicroOp.reads])

/-- The round keys of `k` stand in RK, all written. -/
def State.HoldsRoundKeys (s : State) (k : Block) : Prop := ∀ j, s.wRk.get j = true ∧ s.rk.get j = roundKey k j

theorem execMicroOp_arki_loaded {s : State} {k0 : Block} (h : s.HoldsRoundKeys k0) (j : Fin 11) :
    execMicroOp (.arki j) (s.loaded x k) = s.loaded (addRoundKey x (roundKey k0 j)) k := by
  obtain ⟨hw, hrk⟩ := h j
  have hread : MayRead (s.loaded x k) (MicroOp.arki j).reads := 
    fun r _ => written_of_all (s := s.loaded x k) rfl rfl (fun m => (h m).1) r
  have hreadRk : (s.loaded x k).readRk j = roundKey k0 j := (if_pos hw).trans hrk
  rw [execMicroOp_of_mayRead hread, MicroOp.apply, hreadRk]
  rfl

/-! ## The rounds -/

/-- One main round of ENC_PROG (R195). -/
def encRoundOps (r : Fin 10) : List MicroOp := [.sub, .shr, .mix, .kexp r, .ark]

/-- One main round of DEC_PROG (R197). -/
def decRoundOps (j : Fin 11) : List MicroOp := [.arki j, .imix, .ishr, .isub]

theorem execMicroOps_encRoundOps (r : Fin 10) :
    execMicroOps (encRoundOps r) (s.loaded x (roundKey k r.castSucc)) =
      s.loaded (encRound k x r.succ) (roundKey k r.succ) := by
  simp only [encRoundOps, execMicroOps, execMicroOp_sub_loaded, execMicroOp_shr_loaded, execMicroOp_mix_loaded,
    execMicroOp_kexp_loaded, execMicroOp_ark_loaded, ← roundKey_succ]
  rfl

/-- The first `n` main rounds of ENC (R198). -/
theorem execMicroOps_encRounds (n : Nat) (hn : n < 11) :
    execMicroOps (((List.finRange 10).take n).flatMap encRoundOps) (s.loaded x k) =
      s.loaded (((List.finRange 10).take n).foldl (fun y r => encRound k y r.succ) x) (roundKey k ⟨n, hn⟩) := by
  induction n with
  | zero => rfl
  | succ n ih =>
    have hr : (List.finRange 10)[n]? = some ⟨n, by omega⟩ := by
      rw [List.getElem?_eq_getElem (by rw [List.length_finRange]; omega), List.getElem_finRange]; rfl
    rw [List.take_add_one, hr, List.flatMap_append, execMicroOps_append, ih (by omega), List.foldl_append,
      Option.toList_some, List.flatMap_singleton]
    exact execMicroOps_encRoundOps s _ k ⟨n, by omega⟩

/-- The main rounds of DEC (R198). -/
theorem execMicroOps_decRounds {s : State} {k0 : Block} (h : s.HoldsRoundKeys k0) (js : List (Fin 11)) :
    execMicroOps (js.flatMap decRoundOps) (s.loaded x k) = s.loaded (js.foldl (decRound k0) x) k := by
  induction js generalizing x with
  | nil => rfl
  | cons j js ih =>
    rw [List.flatMap_cons, execMicroOps_append, List.foldl_cons, ← ih]
    simp only [decRoundOps, execMicroOps, execMicroOp_arki_loaded _ _ h, execMicroOp_imix_loaded, execMicroOp_ishr_loaded,
      execMicroOp_isub_loaded]
    rfl

/-! ## The two microprograms -/

theorem encProg_eq_rounds :
    encProg = .ark :: (((List.finRange 10).take 9).flatMap encRoundOps ++ [.sub, .shr, .kexp 9, .ark]) := by decide

theorem decProg_eq_rounds :
    decProg = kschedProg ++ ([.arki 10, .ishr, .isub] ++
      (([9, 8, 7, 6, 5, 4, 3, 2, 1] : List (Fin 11)).flatMap decRoundOps ++ [.arki 0])) := by decide

/-- ENC_PROG on loaded registers is the encryption, with K10 left in KEY (R194, R198). -/
theorem execMicroOps_encProg :
    execMicroOps encProg (s.loaded x k) = s.loaded (aesEnc k x) (roundKey k 10) := by
  rw [encProg_eq_rounds, execMicroOps, execMicroOp_ark_loaded, execMicroOps_append,
    execMicroOps_encRounds s _ k 9 (by decide)]
  simp only [execMicroOps, execMicroOp_sub_loaded, execMicroOp_shr_loaded, execMicroOp_kexp_loaded, execMicroOp_ark_loaded]
  rfl

/-- `s` with all round keys of `k` written to RK. -/
def State.withRoundKeys (s : State) (k : Block) : State :=
  { s with rk := Vector.ofFn (roundKey k), wRk := Vector.replicate 11 true }

theorem State.withRoundKeys_holds : (s.withRoundKeys k).HoldsRoundKeys k := by
  simp [State.HoldsRoundKeys, State.withRoundKeys]

/-- DEC_PROG on loaded registers is the decryption, with the round keys left in RK and K10 in KEY (R196, R198). -/
theorem execMicroOps_decProg :
    execMicroOps decProg (s.loaded x k) = (s.withRoundKeys k).loaded (aesDec k x) (roundKey k 10) := by
  have hkeys := s.withRoundKeys_holds k
  have hsched : execMicroOps kschedProg (s.loaded x k) = (s.withRoundKeys k).loaded x (roundKey k 10) := by
    rw [execMicroOps_kschedProg, firstUnwritten_of_mayRead (by simp [MayRead, State.written, State.loaded]), Option.or_none]
    rfl
  rw [decProg_eq_rounds, execMicroOps_append, hsched, execMicroOps_append, execMicroOps_append]
  simp only [execMicroOps, execMicroOp_arki_loaded _ _ hkeys, execMicroOp_ishr_loaded, execMicroOp_isub_loaded,
    execMicroOps_decRounds _ _ hkeys, roundKey_zero]
  rfl

/-- The atomic transition of ENC (R194, R200). -/
theorem command_enc : command .enc s =
    settleCommand .enc (s.loaded (aesEnc (unpack s.pins.keyIn) (unpack s.pins.blockIn))
      (roundKey (unpack s.pins.keyIn) 10)) :=
  congrArg (settleCommand .enc) (execMicroOps_encProg s (unpack s.pins.blockIn) (unpack s.pins.keyIn))

/-- The atomic transition of DEC (R196, R200). -/
theorem command_dec : command .dec s =
    settleCommand .dec ((s.withRoundKeys (unpack s.pins.keyIn)).loaded
      (aesDec (unpack s.pins.keyIn) (unpack s.pins.blockIn)) (roundKey (unpack s.pins.keyIn) 10)) :=
  congrArg (settleCommand .dec) (execMicroOps_decProg s (unpack s.pins.blockIn) (unpack s.pins.keyIn))

end

end Sys2Proof.Machine

namespace Sys2Proof.Proofs

open Sys2Proof.Machine

/-- Settles O21: the two tables are closed lists of fifty operations, compared with the rounds row by row (R195, R197). -/
theorem cipherProgramsAreTheRounds : Obligations.CipherProgramsAreTheRounds := by
  unfold Obligations.CipherProgramsAreTheRounds
  decide

/-- Settles O35: 51 edges reach the atomic transition of ENC, which is the encryption (R194, R200). -/
theorem encCommandEncrypts : Obligations.EncCommandEncrypts := by
  intro s hp hv hcmd hr
  have hd : decode s.pins.cmd = .command .enc := by rw [hcmd]; rfl
  have hrun := runReachesTheCommandLevelState s .enc hp hv hd hr
  rw [command_enc, settleCommand_eq (by exact hp)] at hrun
  exact hrun

/-- Settles O36: 51 edges reach the atomic transition of DEC, which is the decryption (R196, R200). -/
theorem decCommandDecrypts : Obligations.DecCommandDecrypts := by
  intro s hp hv hcmd hr
  have hd : decode s.pins.cmd = .command .dec := by rw [hcmd]; rfl
  have hrun := runReachesTheCommandLevelState s .dec hp hv hd hr
  rw [command_dec, settleCommand_eq (by exact hp)] at hrun
  exact hrun

/-- Settles O39: in the end states of ENC and DEC the written registers are functions of the sampled operands alone, and
nothing is recorded (R199). -/
theorem cipherIgnoresEarlierState : Obligations.CipherIgnoresEarlierState := by
  intro s s' hp hp' hpins hv hr hr'
  have hv' : s'.pins.cmdValid = true := hpins ▸ hv
  constructor
  · intro hcmd
    refine ⟨_, _, encCommandEncrypts s hp hv hcmd hr, encCommandEncrypts s' hp' hv' (hpins ▸ hcmd) hr', ?_⟩
    simp [hpins]
  · intro hcmd
    refine ⟨_, _, decCommandDecrypts s hp hv hcmd hr, decCommandDecrypts s' hp' hv' (hpins ▸ hcmd) hr', ?_⟩
    simp [hpins]

end Sys2Proof.Proofs

/-! SUPPORT. Proofs about the pseudo-instructions (30_encoding.md R77): several commands without port operands are the
micro-operations of all of them, then the statements. -/

namespace Sys2Proof.Machine

/-- A list of micro-operations takes over what the end of an earlier command set, and does not read it. -/
theorem execMicroOps_settleCommand (ops : List MicroOp) (i : Instr) (s : State) :
    execMicroOps ops (settleCommand i s) = settleCommand i (execMicroOps ops s) := by
  obtain ⟨-, -, -, -, herr, hinputs, -⟩ := execMicroOps_frame ops s
  have hctl := execMicroOps_withControl ops s .idle i (latency i - 1) true s.err s.inputs
  exact hctl.trans (by rw [← herr, ← hinputs]; rfl)

/-- Commands without port operands, one after another, are their microprograms one after another, but for the sequencer and
done (R57, R200). -/
theorem commands_eq_execMicroOps (is : List Instr) (his : ∀ i ∈ is, i.WellFormed ∧ loadsPorts i = false) (s : State) :
    ∃ ph pr u d, commands is s =
      { execMicroOps (is.flatMap microprogram) s with phase := ph, prog := pr, upc := u, done := d } := by
  induction is generalizing s with
  | nil => exact ⟨s.phase, s.prog, s.upc, s.done, rfl⟩
  | cons i is ih =>
    obtain ⟨⟨hw, hl⟩, his⟩ := List.forall_mem_cons.mp his
    have hcommand : command i s = settleCommand i (execMicroOps (microprogram i) s) := by simp [command, hw, hl]
    obtain ⟨ph, pr, u, d, hrest⟩ := ih his (command i s)
    refine ⟨ph, pr, u, d, ?_⟩
    rw [commands, hrest, hcommand, List.flatMap_cons, execMicroOps_append, execMicroOps_settleCommand]
    rfl

theorem encsteps_microprogram : encsteps.flatMap microprogram = encProg := by decide

theorem decsteps_microprogram : decsteps.flatMap microprogram = decProg := by decide

theorem encsteps_plain : ∀ i ∈ encsteps, i.WellFormed ∧ loadsPorts i = false := by decide

theorem decsteps_plain : ∀ i ∈ decsteps, i.WellFormed ∧ loadsPorts i = false := by decide

/-- The atomic transition of LOAD (R193, R200). -/
theorem command_load (s : State) :
    command .load s = settleCommand .load (s.loaded (unpack s.pins.blockIn) (unpack s.pins.keyIn)) := rfl

end Sys2Proof.Machine

namespace Sys2Proof.Proofs

open Sys2Proof.Machine

/-- Settles O54: after LOAD, ENCSTEPS executes ENC_PROG on the loaded registers (R77, R195). -/
theorem encstepsLeavesWhatEncLeaves : Obligations.EncstepsLeavesWhatEncLeaves := by
  intro s
  obtain ⟨ph, pr, u, d, hsteps⟩ := commands_eq_execMicroOps encsteps encsteps_plain (command .load s)
  rw [commands, hsteps, encsteps_microprogram, command_load, execMicroOps_settleCommand, execMicroOps_encProg, command_enc]
  exact ⟨rfl, rfl, rfl, rfl, rfl, rfl⟩

/-- Settles O55: after LOAD, DECSTEPS executes DEC_PROG on the loaded registers (R77, R197). -/
theorem decstepsLeavesWhatDecLeaves : Obligations.DecstepsLeavesWhatDecLeaves := by
  intro s
  obtain ⟨ph, pr, u, d, hsteps⟩ := commands_eq_execMicroOps decsteps decsteps_plain (command .load s)
  rw [commands, hsteps, decsteps_microprogram, command_load, execMicroOps_settleCommand, execMicroOps_decProg, command_dec]
  exact ⟨rfl, rfl, rfl, rfl, rfl, rfl, rfl⟩

end Sys2Proof.Proofs

/-! SUPPORT. Proofs about who writes the data registers (10_state.md R21, R23, R24, R32) and about several cores
(60_exceptions.md R252): first what a step without reset can do to the data registers, said once, then what each
micro-operation writes, and the statements. -/

namespace Sys2Proof.Machine

/-! ## What a step does to the data registers -/

/-- Two cores with the same data registers and ghost bits. -/
structure SameData (t u : State) : Prop where
  state : t.state = u.state
  key : t.key = u.key
  rk : t.rk = u.rk
  wState : t.wState = u.wState
  wKey : t.wKey = u.wKey
  wRk : t.wRk = u.wRk

theorem SameData.written {t u : State} (h : SameData t u) (r : DataReg) : t.written r = u.written r := by
  cases r with
  | state => exact h.wState
  | key => exact h.wKey
  | rk j => exact congrArg (·.get j) h.wRk

/-- The edge of a running command executes one of its micro-operations on the data registers, or leaves them: the latter for
a command term with an illegal index (R191, log entry 11). -/
theorem exec_run_data {i : Instr} {s t : State} (hp : s.phase = .run) (h : exec i s = .next t) :
    (∃ op ∈ microprogram i, SameData t (op.apply s)) ∨ SameData t s := by
  by_cases hw : i.WellFormed
  · obtain ⟨op, hop, rfl⟩ := exec_run_next hw hp h
    obtain ⟨hstate, hkey, hrk, hws, hwk, hwr⟩ := microNext_data i op s
    exact .inl ⟨op, List.mem_of_getElem? hop, hstate, hkey, hrk, hws, hwk, hwr⟩
  · rw [exec_of_not_wellFormed hw] at h
    cases h
    exact .inr ⟨rfl, rfl, rfl, rfl, rfl, rfl⟩

/-- Acceptance loads the ports for a command with port operands, and leaves the data registers for any other (R190). -/
theorem acceptCommand_data (i : Instr) (s : State) :
    (loadsPorts i = true ∧ SameData (acceptCommand i s) s.loadPorts) ∨ SameData (acceptCommand i s) s := by
  have hdata : SameData (acceptCommand i s) (if loadsPorts i then s.loadPorts else s) := by
    by_cases hl : latency i = 0
    · rw [acceptCommand, if_pos hl]; exact ⟨rfl, rfl, rfl, rfl, rfl, rfl⟩
    · rw [acceptCommand, if_neg hl]; exact ⟨rfl, rfl, rfl, rfl, rfl, rfl⟩
  cases hp : loadsPorts i with
  | true => rw [hp, if_pos rfl] at hdata; exact .inl ⟨rfl, hdata⟩
  | false => rw [hp, if_neg Bool.false_ne_true] at hdata; exact .inr hdata

/-- Everything a step without reset can do to the data registers (R190, R191, R246): a micro-operation of the running
command, the load of the ports at an acceptance, or nothing. -/
theorem step_data {s t : State} (h : step s = .next t) (hr : s.pins.rst = false) :
    (s.phase = .run ∧ ∃ op ∈ microprogram s.prog, SameData t (op.apply s)) ∨
    (s.phase = .idle ∧ s.pins.cmdValid = true ∧
      (∃ i, loadsPorts i = true ∧ decode s.pins.cmd = .command i) ∧ SameData t s.loadPorts) ∨
    SameData t s := by
  obtain ⟨hrst, -⟩ | ⟨-, hp, u, hu, rfl⟩ | ⟨-, hp, hv, i, -, hd, rfl⟩ | ⟨-, -, -, -, rfl⟩ | ⟨-, -, -, rfl⟩ := step_next h
  · simp [hr] at hrst
  · obtain ⟨op, hop, hdata⟩ | hdata := exec_run_data hp hu
    · exact .inl ⟨hp, op, hop, { hdata with }⟩
    · exact .inr (.inr { hdata with })
  · obtain ⟨hl, hdata⟩ | hdata := acceptCommand_data i s
    · exact .inr (.inl ⟨hp, hv, ⟨i, hl, hd⟩, { hdata with }⟩)
    · exact .inr (.inr { hdata with })
  · exact .inr (.inr ⟨rfl, rfl, rfl, rfl, rfl, rfl⟩)
  · exact .inr (.inr ⟨rfl, rfl, rfl, rfl, rfl, rfl⟩)

/-- The words of the commands with port operands (R190). -/
theorem decode_of_loadsPorts {cmd : BitVec 8} (h : ∃ i, loadsPorts i = true ∧ decode cmd = .command i) :
    decode cmd = .command .load ∨ decode cmd = .command .enc ∨ decode cmd = .command .dec := by
  obtain ⟨i, hl, hd⟩ := h
  obtain rfl | rfl | rfl := (loadsPorts_iff i).mp hl
  · exact .inl hd
  · exact .inr (.inl hd)
  · exact .inr (.inr hd)

/-! ## What each micro-operation writes -/

/-- The micro-operations of the key schedule, KEXP and KS, write KEY (R172, R173). -/
inductive MicroOp.IsSchedule : MicroOp → Prop
  | kexp (i : Fin 10) : IsSchedule (.kexp i)
  | ks (j : Fin 10) : IsSchedule (.ks j)

/-- They leave STATE. -/
theorem MicroOp.IsSchedule.apply_state {op : MicroOp} (h : op.IsSchedule) (s : State) :
    (op.apply s).state = s.state := by
  cases h with
  | kexp i => rfl
  | ks j => exact scheduleStep_state s j

/-- Every other micro-operation leaves KEY. -/
theorem isSchedule_of_apply_key {op : MicroOp} {s : State} (h : (op.apply s).key ≠ s.key) : op.IsSchedule := by
  cases op with
  | kexp i => exact .kexp i
  | ks j => exact .ks j
  | _ => exact absurd rfl h

/-- Every micro-operation but KS leaves RK and its ghost bits. -/
theorem eq_ks_of_apply_rk {op : MicroOp} {s : State} (h : (op.apply s).rk ≠ s.rk ∨ (op.apply s).wRk ≠ s.wRk) :
    ∃ j, op = .ks j := by
  cases op with
  | ks j => exact ⟨j, rfl⟩
  | _ => exact h.elim (absurd rfl) (absurd rfl)

theorem mem_microprogram_kexp {n : Nibble} {op : MicroOp} (h : op ∈ microprogram (.kexp n)) : ∃ i, op = .kexp i := by
  simp only [microprogram, Option.mem_toList, Option.map_eq_some_iff] at h
  obtain ⟨i, -, rfl⟩ := h
  exact ⟨i, rfl⟩

theorem mem_microprogram_arki {n : Nibble} {op : MicroOp} (h : op ∈ microprogram (.arki n)) : ∃ j, op = .arki j := by
  simp only [microprogram, Option.mem_toList, Option.map_eq_some_iff] at h
  obtain ⟨j, -, rfl⟩ := h
  exact ⟨j, rfl⟩

theorem mem_microprogram_ksched {op : MicroOp} (h : op ∈ microprogram .ksched) : ∃ j, op = .ks j := by
  obtain ⟨j, -, rfl⟩ := List.mem_map.mp h
  exact ⟨j, rfl⟩

/-- The commands whose microprogram advances KEY (R192). -/
theorem prog_of_isSchedule {i : Instr} {op : MicroOp} (hop : op ∈ microprogram i) (h : op.IsSchedule) :
    i = .ksched ∨ i = .enc ∨ i = .dec ∨ ∃ n, i = .kexp n := by
  cases i with
  | ksched => exact .inl rfl
  | enc => exact .inr (.inl rfl)
  | dec => exact .inr (.inr (.inl rfl))
  | kexp n => exact .inr (.inr (.inr ⟨n, rfl⟩))
  | arki n => obtain ⟨j, rfl⟩ := mem_microprogram_arki hop; cases h
  | load => cases hop
  | _ => cases List.mem_singleton.mp hop; cases h

theorem ks_not_mem_encProg : ∀ j, MicroOp.ks j ∉ encProg := by decide

/-- The commands whose microprogram holds a KS (R192). -/
theorem prog_of_ks {i : Instr} {j : Fin 10} (hop : .ks j ∈ microprogram i) : i = .ksched ∨ i = .dec := by
  obtain rfl | rfl | rfl | ⟨n, rfl⟩ := prog_of_isSchedule hop (.ks j)
  · exact .inl rfl
  · exact absurd hop (ks_not_mem_encProg j)
  · exact .inr rfl
  · obtain ⟨i, hi⟩ := mem_microprogram_kexp hop
    cases hi

/-! ## The ghost bits -/

/-- From `s` to `t` no ghost bit is cleared, and a register that changed is written (R32). -/
def GhostBitsFollow (s t : State) : Prop :=
  (∀ r, s.written r = true → t.written r = true) ∧ (t.state ≠ s.state → t.wState = true) ∧
    (t.key ≠ s.key → t.wKey = true) ∧ ∀ j, t.rk.get j ≠ s.rk.get j → t.wRk.get j = true

/-- They follow where nothing is written. -/
theorem GhostBitsFollow.refl (s : State) : GhostBitsFollow s s :=
  ⟨fun _ h => h, absurd rfl, absurd rfl, fun _ => absurd rfl⟩

/-- One write after another: what the first wrote stays written, and what it did not write is as before. -/
theorem GhostBitsFollow.trans {s t u : State} (hst : GhostBitsFollow s t) (htu : GhostBitsFollow t u) :
    GhostBitsFollow s u := by
  obtain ⟨hkeep, hstate, hkey, hrk⟩ := hst
  obtain ⟨hkeep', hstate', hkey', hrk'⟩ := htu
  refine ⟨fun r h => hkeep' r (hkeep r h), fun h => ?_, fun h => ?_, fun j h => ?_⟩
  · by_cases hne : t.state = s.state
    · exact hstate' (hne ▸ h)
    · exact hkeep' .state (hstate hne)
  · by_cases hne : t.key = s.key
    · exact hkey' (hne ▸ h)
    · exact hkeep' .key (hkey hne)
  · by_cases hne : t.rk.get j = s.rk.get j
    · exact hrk' j (hne ▸ h)
    · exact hkeep' (.rk j) (hrk j hne)

/-- The sequencer, the flags and the pins do not matter. -/
theorem GhostBitsFollow.congr {s t u : State} (h : GhostBitsFollow s u) (hd : SameData t u) : GhostBitsFollow s t := by
  obtain ⟨hkeep, hstate, hkey, hrk⟩ := h
  refine ⟨fun r hr => (hd.written r).trans (hkeep r hr), ?_, ?_, ?_⟩
  · rw [hd.state, hd.wState]; exact hstate
  · rw [hd.key, hd.wKey]; exact hkey
  · rw [hd.rk, hd.wRk]; exact hrk

theorem GhostBitsFollow.writeState (s : State) (v : Block) : GhostBitsFollow s (s.writeState v) := by
  refine ⟨fun r h => ?_, fun _ => rfl, absurd rfl, fun _ => absurd rfl⟩
  cases r with
  | state => rfl
  | key => exact h
  | rk j => exact h

theorem GhostBitsFollow.writeKey (s : State) (v : Block) : GhostBitsFollow s (s.writeKey v) := by
  refine ⟨fun r h => ?_, absurd rfl, fun _ => rfl, fun _ => absurd rfl⟩
  cases r with
  | state => exact h
  | key => rfl
  | rk j => exact h

theorem GhostBitsFollow.writeRk (s : State) (j : Fin 11) (v : Block) : GhostBitsFollow s (s.writeRk j v) := by
  refine ⟨fun r h => ?_, absurd rfl, absurd rfl, fun m h => ?_⟩
  · cases r with
    | state => exact h
    | key => exact h
    | rk m =>
      rw [State.written, State.writeRk_wRk, vector_get_set]
      split
      · rfl
      · exact h
  · rw [State.writeRk_rk, vector_get_set] at h
    rw [State.writeRk_wRk, vector_get_set]
    split
    · rfl
    · exact absurd (if_neg ‹_›) h

/-- KS j is two or three writes (R173). -/
theorem GhostBitsFollow.scheduleStep (j : Fin 10) (s : State) : GhostBitsFollow s (scheduleStep j s) := by
  have hfirst : GhostBitsFollow s (if j = 0 then s.writeRk 0 s.readKey else s) := by
    split
    · exact .writeRk s 0 _
    · exact .refl s
  exact (hfirst.trans (.writeRk _ _ _)).trans (.writeKey _ _)

/-- Every micro-operation is made of writes (R32). -/
theorem GhostBitsFollow.apply (op : MicroOp) (s : State) : GhostBitsFollow s (op.apply s) := by
  cases op with
  | kexp i => exact .writeKey s _
  | ks j => exact .scheduleStep j s
  | _ => exact .writeState s _

/-! ## Several cores -/

/-- Everything an edge of core `k` that answers a system did: that core's step, or nothing where there is no such core. -/
theorem stepCore_next {sys sys' : System} {k : Nat} (h : sys.stepCore k = .next sys') :
    (sys[k]? = none ∧ sys' = sys) ∨ ∃ s t, sys[k]? = some s ∧ step s = .next t ∧ sys' = sys.set k t := by
  unfold System.stepCore at h
  cases hk : sys[k]? with
  | none => rw [hk] at h; cases h; exact .inl ⟨rfl, rfl⟩
  | some s =>
    rw [hk] at h
    cases hs : step s with
    | next t => simp only [hs] at h; cases h; exact .inr ⟨s, t, rfl, hs, rfl⟩
    | fault f => simp only [hs] at h; cases h
    | refused r => simp only [hs] at h; cases h

theorem stepCore_of_none {sys : System} {k : Nat} (h : sys[k]? = none) : sys.stepCore k = .next sys := by
  simp [System.stepCore, h]

theorem stepCore_of_some {sys : System} {k : Nat} {s t : State} (h : sys[k]? = some s) (hs : step s = .next t) :
    sys.stepCore k = .next (sys.set k t) := by
  simp [System.stepCore, h, hs]

/-- An edge of one core leaves every other core (R252). -/
theorem stepCore_frame {sys sys' : System} {k m : Nat} (h : sys.stepCore k = .next sys') (hm : m ≠ k) :
    sys'[m]? = sys[m]? := by
  obtain ⟨-, rfl⟩ | ⟨s, t, -, -, rfl⟩ := stepCore_next h
  · rfl
  · exact List.getElem?_set_ne hm.symm

end Sys2Proof.Machine

namespace Sys2Proof.Proofs

open Sys2Proof.Machine

/-- Settles O44: KSCHED and KEXP run operations of the key schedule alone, and those leave STATE (R21). -/
theorem stateWrittenOnlyByStagesAndLoads : Obligations.StateWrittenOnlyByStagesAndLoads := by
  intro s t _ h hr hne
  obtain ⟨hp, op, hop, hdata⟩ | ⟨hp, hv, hd, -⟩ | hdata := step_data h hr
  · have hstage : ¬ op.IsSchedule := fun hs => hne (hdata.state.trans (hs.apply_state s))
    refine .inl ⟨hp, fun hprog => ?_, fun n hprog => ?_⟩
    · obtain ⟨j, rfl⟩ := mem_microprogram_ksched (hprog ▸ hop)
      exact hstage (.ks j)
    · obtain ⟨i, rfl⟩ := mem_microprogram_kexp (hprog ▸ hop)
      exact hstage (.kexp i)
  · exact .inr ⟨hp, hv, decode_of_loadsPorts hd⟩
  · exact absurd hdata.state hne

/-- Settles O45: only operations of the key schedule write KEY, and only four kinds of command have one (R23). -/
theorem keyWrittenOnlyByScheduleAndLoads : Obligations.KeyWrittenOnlyByScheduleAndLoads := by
  intro s t _ h hr hne
  obtain ⟨hp, op, hop, hdata⟩ | ⟨hp, hv, hd, -⟩ | hdata := step_data h hr
  · exact .inl ⟨hp, prog_of_isSchedule hop (isSchedule_of_apply_key (hdata.key ▸ hne))⟩
  · exact .inr ⟨hp, hv, decode_of_loadsPorts hd⟩
  · exact absurd hdata.key hne

/-- Settles O46: only KS writes RK, and only KSCHED and DEC have a KS (R24, R279). -/
theorem roundKeysWrittenOnlyByKschedAndDec : Obligations.RoundKeysWrittenOnlyByKschedAndDec := by
  intro s t _ h hr hne
  obtain ⟨hp, op, hop, hdata⟩ | ⟨-, -, -, hdata⟩ | hdata := step_data h hr
  · obtain ⟨j, rfl⟩ := eq_ks_of_apply_rk (hdata.rk ▸ hdata.wRk ▸ hne)
    exact ⟨hp, prog_of_ks hop⟩
  · exact absurd hne (by simp [hdata.rk, hdata.wRk])
  · exact absurd hne (by simp [hdata.rk, hdata.wRk])

/-- Settles O47: a step without reset changes data registers only by writes, and each write sets its ghost bit (R32). -/
theorem ghostBitsFollowWrites : Obligations.GhostBitsFollowWrites := by
  intro s t h hr
  obtain ⟨-, op, -, hdata⟩ | ⟨-, -, -, hdata⟩ | hdata := step_data h hr
  · exact (GhostBitsFollow.apply op s).congr hdata
  · exact ((GhostBitsFollow.writeState s _).trans (.writeKey _ _)).congr hdata
  · exact (GhostBitsFollow.refl s).congr hdata

/-- Settles O48: an edge of core k is a step of that core put back in its place, so edges of two cores read and write two
places (R252). -/
theorem instancesShareNothing : Obligations.InstancesShareNothing := by
  refine ⟨fun sys sys' k m => stepCore_frame, ?_⟩
  intro sys a b k m hkm ha hb
  have hm : a[m]? = sys[m]? := stepCore_frame ha hkm.symm
  obtain ⟨hnone, rfl⟩ | ⟨s, t, hs, ht, rfl⟩ := stepCore_next hb
  · refine ⟨sys, stepCore_of_none (hm ▸ hnone), ha⟩
  · rw [hm] at hs
    refine ⟨sys.set m t, stepCore_of_some hs ht, ?_⟩
    have hk : (sys.set m t)[k]? = sys[k]? := List.getElem?_set_ne hkm.symm
    obtain ⟨hnone, rfl⟩ | ⟨s', t', hs', ht', rfl⟩ := stepCore_next ha
    · exact stepCore_of_none (hk.trans hnone)
    · rw [stepCore_of_some (hk.trans hs') ht', List.set_comm _ _ hkm]

end Sys2Proof.Proofs

/-! SUPPORT. Proofs about field arithmetic (40_gf_tables.md R100 to R106): the field product as a sum of multiples of its
left factor, that sums of powers of x are all bytes, and from both the laws of the field, then the statements. -/

namespace Sys2Proof.Machine

/-! ## The field product as a sum -/

/-- The multiples of `a` by the powers of x whose bit is set in `b`, up to but not with x^n, summed (R103). -/
def gmulUpTo (a b : Byte) : Nat → Byte
  | 0 => 0
  | n + 1 => gmulUpTo a b n ^^^ (if b.getLsbD n then xtime^[n] a else 0)

/-- The loop of R103 after `n` passes. -/
theorem foldl_gmulPass (a b : Byte) (n : Nat) :
    (List.range n).foldl (gmulPass b) (0, a) = (gmulUpTo a b n, xtime^[n] a) := by
  induction n with
  | zero => rfl
  | succ n ih =>
    rw [List.range_succ, List.foldl_append, ih, List.foldl_cons, List.foldl_nil, gmulPass, gmulUpTo,
      Function.iterate_succ_apply']
    cases b.getLsbD n <;> simp

theorem gmul_eq_gmulUpTo (a b : Byte) : gmul a b = gmulUpTo a b 8 := by rw [gmul, foldl_gmulPass]

theorem iterate_xtime_xor (n : Nat) (a b : Byte) : xtime^[n] (a ^^^ b) = xtime^[n] a ^^^ xtime^[n] b := by
  induction n generalizing a b with
  | zero => rfl
  | succ n ih => rw [Function.iterate_succ_apply, xtime_xor, ih]; rfl

theorem gmulUpTo_xor_left (a b c : Byte) (n : Nat) :
    gmulUpTo (a ^^^ b) c n = gmulUpTo a c n ^^^ gmulUpTo b c n := by
  induction n with
  | zero => exact BitVec.xor_zero.symm
  | succ n ih =>
    rw [gmulUpTo, gmulUpTo, gmulUpTo, ih, Byte.xor_regroup, iterate_xtime_xor]
    cases c.getLsbD n <;> simp

theorem gmulUpTo_xor_right (a b c : Byte) (n : Nat) :
    gmulUpTo a (b ^^^ c) n = gmulUpTo a b n ^^^ gmulUpTo a c n := by
  induction n with
  | zero => exact BitVec.xor_zero.symm
  | succ n ih =>
    rw [gmulUpTo, gmulUpTo, gmulUpTo, ih, Byte.xor_regroup, BitVec.getLsbD_xor]
    cases b.getLsbD n <;> cases c.getLsbD n <;> simp

/-- The field product distributes over addition on the left (R101, R103). -/
theorem gmul_xor_left (a b c : Byte) : gmul (a ^^^ b) c = gmul a c ^^^ gmul b c := by
  simp only [gmul_eq_gmulUpTo, gmulUpTo_xor_left]

/-- And on the right (R101, R103). -/
theorem gmul_xor_right (a b c : Byte) : gmul a (b ^^^ c) = gmul a b ^^^ gmul a c := by
  simp only [gmul_eq_gmulUpTo, gmulUpTo_xor_right]

/-! ## Powers of x, and the laws -/

/-- The byte x^k has bit k alone, for k below 8 (R100). -/
theorem getLsbD_iterate_xtime_one : ∀ k < 8, ∀ n < 8, (xtime^[k] 1).getLsbD n = decide (n = k) := by decide

/-- The product by x^k is `xtime` k times (R102, R103). -/
theorem gmul_power (a : Byte) {k : Nat} (hk : k < 8) : gmul a (xtime^[k] 1) = xtime^[k] a := by
  have hsum : ∀ n ≤ 8, gmulUpTo a (xtime^[k] 1) n = if k < n then xtime^[k] a else 0 := by
    intro n hn
    induction n with
    | zero => rfl
    | succ n ih =>
      rw [gmulUpTo, ih (by omega), getLsbD_iterate_xtime_one k hk n (by omega)]
      obtain hlt | rfl | hgt := Nat.lt_trichotomy k n
      · simp [hlt, Nat.lt_succ_of_lt hlt, hlt.ne']
      · simp
      · simp [hgt.ne, Nat.not_lt.mpr hgt.le, Nat.not_lt.mpr hgt]
  rw [gmul_eq_gmulUpTo, hsum 8 le_rfl, if_pos hk]

set_option maxRecDepth 4000 in
theorem gmul_one_left : ∀ x : Byte, gmul 1 x = x := by decide

/-- What holds of 0 and of the powers of x below x^8, and of the sum of any two bytes it holds of, holds of every byte: a
byte is the sum of its powers of x, as 1 times the byte (R100). -/
theorem Byte.sum_induction {p : Byte → Prop} (zero : p 0) (power : ∀ k < 8, p (xtime^[k] 1))
    (sum : ∀ a b, p a → p b → p (a ^^^ b)) (a : Byte) : p a := by
  have hall : ∀ n ≤ 8, p (gmulUpTo 1 a n) := by
    intro n hn
    induction n with
    | zero => exact zero
    | succ n ih =>
      refine sum _ _ (ih (by omega)) ?_
      split
      · exact power n (by omega)
      · exact zero
  have h := hall 8 le_rfl
  rwa [← gmul_eq_gmulUpTo, gmul_one_left] at h

theorem gmul_zero_right (a : Byte) : gmul a 0 = 0 := by
  have h := gmul_xor_right a 0 0
  simpa using h

theorem gmul_zero_left (a : Byte) : gmul 0 a = 0 := by
  have h := gmul_xor_left 0 0 a
  simpa using h

/-- On powers of x both orders of the product add the exponents (R103). -/
theorem gmul_comm (a b : Byte) : gmul a b = gmul b a := by
  induction a using Byte.sum_induction with
  | zero => rw [gmul_zero_left, gmul_zero_right]
  | sum a a' ha ha' => rw [gmul_xor_left, gmul_xor_right, ha, ha']
  | power j hj =>
    induction b using Byte.sum_induction with
    | zero => rw [gmul_zero_left, gmul_zero_right]
    | sum b b' hb hb' => rw [gmul_xor_left, gmul_xor_right, hb, hb']
    | power k hk =>
      rw [gmul_power _ hj, gmul_power _ hk, ← Function.iterate_add_apply, ← Function.iterate_add_apply, Nat.add_comm]

theorem gmul_one_right (x : Byte) : gmul x 1 = x := by rw [gmul_comm, gmul_one_left]

/-- The product with a left factor multiplied by x^j is multiplied by x^j. -/
theorem gmul_iterate_xtime_left (a b : Byte) (j : Nat) : gmul (xtime^[j] a) b = xtime^[j] (gmul a b) := by
  induction b using Byte.sum_induction with
  | zero => rw [gmul_zero_right, gmul_zero_right, Function.iterate_fixed (by decide)]
  | sum b b' hb hb' => rw [gmul_xor_right, gmul_xor_right, iterate_xtime_xor, hb, hb']
  | power k hk =>
    rw [gmul_power _ hk, gmul_power _ hk, ← Function.iterate_add_apply, ← Function.iterate_add_apply, Nat.add_comm]

theorem gmul_assoc (a b c : Byte) : gmul (gmul a b) c = gmul a (gmul b c) := by
  induction a using Byte.sum_induction with
  | zero => simp only [gmul_zero_left]
  | sum a a' ha ha' => simp only [gmul_xor_left, ha, ha']
  | power j hj => simp only [gmul_iterate_xtime_left, gmul_one_left]

/-! ## Inverses and the S-box -/

/-- The inverse of the affine map of R105. -/
def affineInverse (x : Byte) : Byte := x.rotateLeft 1 ^^^ x.rotateLeft 3 ^^^ x.rotateLeft 6 ^^^ 0x05

set_option maxRecDepth 4000 in
theorem affineMap_affineInverse : ∀ x : Byte, affineMap (affineInverse x) = x := by decide

set_option maxRecDepth 4000 in
/-- The printed S-box, its affine map undone, is a multiplicative inverse (R105). -/
theorem gmul_affineInverse_sbox : ∀ v : Byte, v ≠ 0 → gmul v (affineInverse (sbox v)) = 1 := by decide

set_option maxRecDepth 4000 in
theorem sbox_ne_self : ∀ v : Byte, sbox v ≠ v := by decide

/-- Inverses are unique: multiply by the other one (R103). -/
theorem eq_of_gmul_eq_one {a b c : Byte} (hb : gmul a b = 1) (hc : gmul a c = 1) : b = c :=
  calc b = gmul (gmul c a) b := by rw [gmul_comm c, hc, gmul_one_left]
    _ = gmul c (gmul a b) := gmul_assoc c a b
    _ = c := by rw [hb, gmul_one_right]

theorem squarings_succ (n : Nat) (a : Byte) :
    squarings (n + 1) a = gmul (squarings n a) (squarings n a) := by
  induction n generalizing a with
  | zero => rfl
  | succ n ih => rw [squarings, ih, squarings]

/-- Squaring is additive, as the two mixed products are equal and cancel. -/
theorem squarings_xor (n : Nat) (a b : Byte) : squarings n (a ^^^ b) = squarings n a ^^^ squarings n b := by
  induction n generalizing a b with
  | zero => rfl
  | succ n ih =>
    have hmixed : gmul (a ^^^ b) (a ^^^ b) = gmul a a ^^^ gmul b b := by
      rw [gmul_xor_left, gmul_xor_right, gmul_xor_right, gmul_comm b a]
      simp [← BitVec.xor_assoc]
    rw [squarings, hmixed, ih]
    rfl

/-- a^256 is a: so it is for the powers of x, and both sides are additive. -/
theorem squarings_eight (a : Byte) : squarings 8 a = a := by
  induction a using Byte.sum_induction with
  | zero => decide
  | power k hk => revert k; decide
  | sum a b ha hb => rw [squarings_xor, ha, hb]

theorem foldl_gmul (l : List Byte) (a b : Byte) : l.foldl gmul (gmul a b) = gmul a (l.foldl gmul b) := by
  induction l generalizing b with
  | nil => rfl
  | cons c l ih => rw [List.foldl_cons, List.foldl_cons, gmul_assoc, ih]

/-- The product of a² with a^254 collapses square by square to a^256 (R105). -/
theorem gmul_square_gfInverse (a : Byte) : gmul (gmul a a) (gfInverse a) = a := by
  have hlist : (List.range 7).map (fun n => squarings (n + 1) a) = [squarings 1 a, squarings 2 a, squarings 3 a,
    squarings 4 a, squarings 5 a, squarings 6 a, squarings 7 a] := rfl
  calc gmul (gmul a a) (gfInverse a)
      = [squarings 1 a, squarings 2 a, squarings 3 a, squarings 4 a, squarings 5 a, squarings 6 a,
          squarings 7 a].foldl gmul (squarings 1 a) := by rw [gfInverse, ← foldl_gmul, gmul_one_right, hlist]; rfl
    _ = squarings 8 a := by simp only [List.foldl_cons, List.foldl_nil, ← squarings_succ]
    _ = a := squarings_eight a

/-- `gfInverse` is a multiplicative inverse (R105): cancel a from a · (a · a^254) = a by the inverse that the S-box gives. -/
theorem gmul_gfInverse (a : Byte) (ha : a ≠ 0) : gmul a (gfInverse a) = 1 := by
  have hinv := gmul_affineInverse_sbox a ha
  have hcancel := congrArg (gmul (affineInverse (sbox a))) (gmul_square_gfInverse a)
  rwa [gmul_assoc, ← gmul_assoc, gmul_comm _ a, hinv, gmul_one_left] at hcancel

theorem gfInverse_zero : gfInverse 0 = 0 := by decide

/-- The S-box is the affine image of the inverse (R105). -/
theorem sbox_eq_affineMap_gfInverse (v : Byte) : sbox v = affineMap (gfInverse v) := by
  by_cases hv : v = 0
  · rw [hv, gfInverse_zero]; decide
  · rw [eq_of_gmul_eq_one (gmul_gfInverse v hv) (gmul_affineInverse_sbox v hv), affineMap_affineInverse]

/-! ## The multiplication tables as products -/

theorem gmul_two (v : Byte) : gmul v 2 = xtime v := gmul_power v (k := 1) (by decide)
theorem gmul_four (v : Byte) : gmul v 4 = x4 v := gmul_power v (k := 2) (by decide)
theorem gmul_eight (v : Byte) : gmul v 8 = x8 v := gmul_power v (k := 3) (by decide)

theorem mul2_eq_gmul (v : Byte) : mul2 v = gmul v 2 := by rw [mul2_eq, gmul_two]

theorem mul3_eq_gmul (v : Byte) : mul3 v = gmul v 3 := by
  rw [mul3_eq, show (3 : Byte) = 2 ^^^ 1 by decide, gmul_xor_right, gmul_two, gmul_one_right]

theorem mul9_eq_gmul (v : Byte) : mul9 v = gmul v 9 := by
  rw [mul9_eq, show (9 : Byte) = 8 ^^^ 1 by decide, gmul_xor_right, gmul_eight, gmul_one_right]

theorem mul11_eq_gmul (v : Byte) : mul11 v = gmul v 11 := by
  rw [mul11_eq, show (11 : Byte) = 8 ^^^ 2 ^^^ 1 by decide, gmul_xor_right, gmul_xor_right, gmul_eight, gmul_two,
    gmul_one_right]

theorem mul13_eq_gmul (v : Byte) : mul13 v = gmul v 13 := by
  rw [mul13_eq, show (13 : Byte) = 8 ^^^ 4 ^^^ 1 by decide, gmul_xor_right, gmul_xor_right, gmul_eight, gmul_four,
    gmul_one_right]

theorem mul14_eq_gmul (v : Byte) : mul14 v = gmul v 14 := by
  rw [mul14_eq, show (14 : Byte) = 8 ^^^ 4 ^^^ 2 by decide, gmul_xor_right, gmul_xor_right, gmul_eight, gmul_four, gmul_two]

end Sys2Proof.Machine

namespace Sys2Proof.Proofs

open Sys2Proof.Machine

/-- Settles O53: the laws follow from the product as a sum of powers of x (R103). -/
theorem gmulIsAFieldProduct : Obligations.GmulIsAFieldProduct := by
  refine ⟨gmul_xor_right, gmul_comm, gmul_assoc, fun x => ⟨gmul_zero_left x, gmul_one_left x⟩, gmul_two, ?inverse,
    by decide, by decide⟩
  case inverse => exact fun a ha => ⟨gfInverse a, gmul_gfInverse a ha, fun b hb =>
    eq_of_gmul_eq_one hb (gmul_gfInverse a ha)⟩

/-- Settles O50: each table is a sum of products by powers of x (R104). -/
theorem multiplicationRomsHoldProducts : Obligations.MultiplicationRomsHoldProducts := fun v =>
  ⟨mul2_eq_gmul v, mul3_eq_gmul v, mul9_eq_gmul v, mul11_eq_gmul v, mul13_eq_gmul v, mul14_eq_gmul v⟩

/-- Settles O51: the printed S-box, its affine map undone, is the one multiplicative inverse, which `gfInverse` is
(R105, R106). -/
theorem sboxIsAffineOfInverse : Obligations.SboxIsAffineOfInverse := fun v =>
  ⟨sbox_eq_affineMap_gfInverse v, gmul_gfInverse v, gfInverse_zero, invSbox_sbox v, sbox_invSbox v, sbox_ne_self v⟩

end Sys2Proof.Proofs

/-! SUPPORT. Proofs about the inverse laws and the round trip of the cipher (42_inverse_stages.md R154, 44_cipher_commands.md
R198): first the column maps of MIX and IMIX as circulant matrices over the field and their product, then the laws of the
stages and of the rounds, and the statements. -/

namespace Sys2Proof.Machine

/-! ## The column maps as circulant matrices -/

/-- The product of a column with the circulant matrix whose first row is `m` (R133, R152). -/
def circulant (m x : Column) : Column where
  r0 := gmul x.r0 m.r0 ^^^ gmul x.r1 m.r1 ^^^ gmul x.r2 m.r2 ^^^ gmul x.r3 m.r3
  r1 := gmul x.r0 m.r3 ^^^ gmul x.r1 m.r0 ^^^ gmul x.r2 m.r1 ^^^ gmul x.r3 m.r2
  r2 := gmul x.r0 m.r2 ^^^ gmul x.r1 m.r3 ^^^ gmul x.r2 m.r0 ^^^ gmul x.r3 m.r1
  r3 := gmul x.r0 m.r1 ^^^ gmul x.r1 m.r2 ^^^ gmul x.r2 m.r3 ^^^ gmul x.r3 m.r0

theorem mixColumn_eq_circulant (x : Column) : mixColumn x = circulant ⟨2, 3, 1, 1⟩ x := by
  simp only [mixColumn, circulant, mul2_eq_gmul, mul3_eq_gmul, gmul_one_right]

theorem invMixColumn_eq_circulant (x : Column) : invMixColumn x = circulant ⟨14, 11, 13, 9⟩ x := by
  simp only [invMixColumn, circulant, mul9_eq_gmul, mul11_eq_gmul, mul13_eq_gmul, mul14_eq_gmul]

/-- The first row of the product of two circulant matrices, which is circulant again. -/
def circulantMul (m n : Column) : Column where
  r0 := gmul n.r0 m.r0 ^^^ gmul n.r3 m.r1 ^^^ gmul n.r2 m.r2 ^^^ gmul n.r1 m.r3
  r1 := gmul n.r1 m.r0 ^^^ gmul n.r0 m.r1 ^^^ gmul n.r3 m.r2 ^^^ gmul n.r2 m.r3
  r2 := gmul n.r2 m.r0 ^^^ gmul n.r1 m.r1 ^^^ gmul n.r0 m.r2 ^^^ gmul n.r3 m.r3
  r3 := gmul n.r3 m.r0 ^^^ gmul n.r2 m.r1 ^^^ gmul n.r1 m.r2 ^^^ gmul n.r0 m.r3

/-- One matrix after the other is their product. -/
theorem circulant_circulant (m n x : Column) : circulant m (circulant n x) = circulant (circulantMul m n) x := by
  simp only [circulant, circulantMul, gmul_xor_left, gmul_xor_right, gmul_assoc, Column.mk.injEq]
  refine ⟨?_, ?_, ?_, ?_⟩ <;> ac_rfl

/-- The first row of the unit matrix. -/
theorem circulant_one (x : Column) : circulant ⟨1, 0, 0, 0⟩ x = x := by
  simp only [circulant, gmul_one_right, gmul_zero_right]
  simp

/-- The matrices of MIX and IMIX are inverse (R152). -/
theorem circulantMul_invMix_mix : circulantMul ⟨14, 11, 13, 9⟩ ⟨2, 3, 1, 1⟩ = ⟨1, 0, 0, 0⟩ := by decide

theorem circulantMul_mix_invMix : circulantMul ⟨2, 3, 1, 1⟩ ⟨14, 11, 13, 9⟩ = ⟨1, 0, 0, 0⟩ := by decide

theorem invMixColumn_mixColumn (x : Column) : invMixColumn (mixColumn x) = x := by
  rw [invMixColumn_eq_circulant, mixColumn_eq_circulant, circulant_circulant, circulantMul_invMix_mix, circulant_one]

theorem mixColumn_invMixColumn (x : Column) : mixColumn (invMixColumn x) = x := by
  rw [mixColumn_eq_circulant, invMixColumn_eq_circulant, circulant_circulant, circulantMul_mix_invMix, circulant_one]

/-! ## The laws of the stages (R154) -/

section
variable (x k : Block)

@[simp] theorem invMixColumns_mixColumns : invMixColumns (mixColumns x) = x := by
  simp only [invMixColumns, mixColumns, Block.mapColumns, invMixColumn_mixColumn]

@[simp] theorem mixColumns_invMixColumns : mixColumns (invMixColumns x) = x := by
  simp only [invMixColumns, mixColumns, Block.mapColumns, mixColumn_invMixColumn]

/-- A byte map and one that undoes it, lane by lane. -/
theorem map_map_cancel {f g : Byte → Byte} (h : ∀ v, g (f v) = v) : (x.map f).map g = x := by
  simp only [Block.map, Column.map, h]

@[simp] theorem invSubBytes_subBytes : invSubBytes (subBytes x) = x := map_map_cancel x invSbox_sbox

@[simp] theorem subBytes_invSubBytes : subBytes (invSubBytes x) = x := map_map_cancel x sbox_invSbox

@[simp] theorem invShiftRows_shiftRows : invShiftRows (shiftRows x) = x := rfl

@[simp] theorem shiftRows_invShiftRows : shiftRows (invShiftRows x) = x := rfl

@[simp] theorem addRoundKey_addRoundKey : addRoundKey (addRoundKey x k) k = x := Block.xor_cancel x k

end

/-! ## The rounds (R198) -/

theorem decRound_encRound (k x : Block) (r : Fin 11) : decRound k (encRound k x r) r = x := by
  simp [decRound, encRound]

theorem encRound_decRound (k x : Block) (r : Fin 11) : encRound k (decRound k x r) r = x := by
  simp [decRound, encRound]

/-- Rounds undone one by one, in the opposite order. -/
theorem foldl_reverse_cancel {f g : Block → Fin 11 → Block} (h : ∀ x r, g (f x r) r = x) (rs : List (Fin 11)) (x : Block) :
    rs.reverse.foldl g (rs.foldl f x) = x := by
  induction rs generalizing x with
  | nil => rfl
  | cons r rs ih => rw [List.reverse_cons, List.foldl_append, List.foldl_cons (f := f), ih, List.foldl_cons,
    List.foldl_nil, h]

end Sys2Proof.Machine

namespace Sys2Proof.Proofs

open Sys2Proof.Machine

/-- Settles O37: the inverse laws, of which those of MIX are the product of its matrix with that of IMIX; the commutations
hold cell by cell, as a rotation moves cells and a byte map does not (R154). -/
theorem inverseStagesUndoForwardStages : Obligations.InverseStagesUndoForwardStages := fun x k =>
  ⟨invSubBytes_subBytes x, subBytes_invSubBytes x, invShiftRows_shiftRows x, shiftRows_invShiftRows x,
    invMixColumns_mixColumns x, mixColumns_invMixColumns x, addRoundKey_addRoundKey x k, rfl, rfl, rfl, rfl⟩

/-- Settles O38: each round of one cipher undoes the same round of the other, and the rounds come in the opposite order
(R198). -/
theorem cipherRoundTrip : Obligations.CipherRoundTrip := by
  intro k x
  have hdec := foldl_reverse_cancel (decRound_encRound k) [1, 2, 3, 4, 5, 6, 7, 8, 9]
  have henc := foldl_reverse_cancel (encRound_decRound k) [9, 8, 7, 6, 5, 4, 3, 2, 1]
  simp only [List.reverse_cons, List.reverse_nil, List.nil_append, List.cons_append] at hdec henc
  constructor
  · simp only [aesDec, aesEnc, addRoundKey_addRoundKey, invShiftRows_shiftRows, invSubBytes_subBytes, hdec]
  · simp only [aesDec, aesEnc, addRoundKey_addRoundKey, subBytes_invSubBytes, shiftRows_invShiftRows, henc]

end Sys2Proof.Proofs

/-! SUPPORT. Proofs about the host's codec (45_host_codec.md R222 to R225, R228): first what a text with separators keeps and
what two hex digits mean, then the statements. -/

namespace Sys2Proof.Machine

/-! ## Hex text -/

/-- What a filter keeps of pieces with separators that it drops whole. -/
theorem filter_intercalate {α : Type} (keep : α → Bool) {sep : List α} (hsep : sep.filter keep = [])
    (pieces : List (List α)) : (sep.intercalate pieces).filter keep = pieces.flatMap (List.filter keep) := by
  induction pieces with
  | nil => rfl
  | cons piece rest ih =>
    cases rest with
    | nil => simp [List.intercalate]
    | cons next rest => rw [List.intercalate_cons_cons, List.filter_append, List.filter_append, hsep, ih]; simp

/-- No hex digit is white space, and each has its value (R223, R225). -/
theorem hexDigit_spec : ∀ v < 16, isWhitespace (hexDigit v) = false ∧ hexValue (hexDigit v) = some v := by decide

theorem filter_hex2 (b : Byte) : (hex2 b).filter (fun c => !isWhitespace c) = hex2 b := by
  have hhigh := (hexDigit_spec (b.toNat / 16) (by omega)).1
  have hlow := (hexDigit_spec (b.toNat % 16) (by omega)).1
  simp [hex2, hhigh, hlow]

/-- The digits of bytes read back as the bytes (R223, R225). -/
theorem hexPairs_flatMap_hex2 (bs : List Byte) : hexPairs (bs.flatMap hex2) = some bs := by
  induction bs with
  | nil => rfl
  | cons b bs ih =>
    have hhigh := (hexDigit_spec (b.toNat / 16) (by omega)).2
    have hlow := (hexDigit_spec (b.toNat % 16) (by omega)).2
    have hb : BitVec.ofNat 8 (16 * (b.toNat / 16) + b.toNat % 16) = b := by rw [Nat.div_add_mod, BitVec.ofNat_toNat]; simp
    simp [hex2, hexPairs, hhigh, hlow, ih, hb]

/-- The hex text without its white space is the digits of the bytes in order (R223). -/
theorem filter_stateToHex (trailingSpace : Bool) (x : Block) :
    (stateToHex trailingSpace x).filter (fun c => !isWhitespace c) = x.bytes.flatMap hex2 := by
  have htail : (if trailingSpace then [0x20] else []).filter (fun c => !isWhitespace c) = [] := by
    cases trailingSpace <;> rfl
  rw [stateToHex, List.filter_append, filter_intercalate _ rfl, htail, List.append_nil, List.flatMap_map]
  exact congrArg (x.bytes.flatMap ·) (funext filter_hex2)

/-- The bytes of a block in order give the block (R21). -/
theorem ofBytes_getD_bytes (x : Block) : Block.ofBytes (fun n => x.bytes.getD n 0) = x := by
  apply Block.eq_of_bytes
  intro n hn
  rw [Block.byte_ofBytes _ n hn]
  simp [Block.bytes, hn]

/-! ## Text -/

/-- The first wide character, as R222 looks for it: a code above 0xFF with none before it, within the first 16. -/
theorem firstWideChar_eq_some {text : Text} {n c : Nat} (hn : n < 16) (hc : text[n]? = some c) (hwide : 0xFF < c)
    (hbefore : ∀ m < n, ∀ e, text[m]? = some e → e ≤ 0xFF) : firstWideChar text = some n := by
  obtain ⟨hlt, hget⟩ := List.getElem?_eq_some_iff.mp hc
  rw [firstWideChar, List.findIdx?_eq_some_iff_getElem]
  refine ⟨by rw [List.length_take]; omega, ?_, fun m hm => ?_⟩
  · simpa [hget] using hwide
  · simpa using hbefore m hm _ (List.getElem?_eq_getElem (by omega))

theorem firstWideChar_eq_none {text : Text} (h : ∀ m < 16, ∀ e, text[m]? = some e → e ≤ 0xFF) :
    firstWideChar text = none := by
  rw [firstWideChar, List.findIdx?_eq_none_iff]
  intro e he
  obtain ⟨m, hm, hget⟩ := List.mem_take_iff_getElem.mp he
  simpa using h m (by omega) e (hget ▸ List.getElem?_eq_getElem _)

/-- The two ways past the length check of R228. -/
theorem not_rejected_of_length {policy : PadPolicy} {text : Text} (h : policy = .truncatePad ∨ text.length ≤ 16) :
    ¬(policy = .rejectLong ∧ 16 < text.length) := by
  rintro ⟨rfl, hlong⟩
  obtain h | h := h
  · cases h
  · omega

section
variable {policy : PadPolicy} {text : Text} (h : policy = .truncatePad ∨ text.length ≤ 16)
include h

/-- A text that the length policy passes and that has a wide character (R222). -/
theorem textToState_of_wide {n : Nat} (hwide : firstWideChar text = some n) :
    textToState policy text = .error (.charRangeError n) := by
  rw [textToState, if_neg (not_rejected_of_length h), hwide]

/-- A text that the length policy passes and that has none (R222). -/
theorem textToState_of_narrow (hnarrow : firstWideChar text = none) :
    textToState policy text = .ok (Block.ofBytes fun n => BitVec.ofNat 8 (text.getD n 0)) := by
  rw [textToState, if_neg (not_rejected_of_length h), hnarrow]

end

/-- A character that is no wide one fits in a byte, and so does the zero past the end. -/
theorem getD_lt_of_narrow {text : Text} {n : Nat} (h : ∀ e, text[n]? = some e → e ≤ 0xFF) : text.getD n 0 < 2 ^ 8 := by
  rw [List.getD_eq_getElem?_getD]
  cases hc : text[n]? with
  | none => decide
  | some e => exact Nat.lt_succ_of_le (h e hc)

end Sys2Proof.Machine

namespace Sys2Proof.Proofs

open Sys2Proof.Machine

/-- Settles O56: white space removed, the hex text is the digits of the sixteen bytes, which read back one by one (R223,
R225). -/
theorem hexTextRoundTrip : Obligations.HexTextRoundTrip := by
  refine fun x trailingSpace => ⟨?_, by cases trailingSpace <;> rfl⟩
  have hlen : (x.bytes.flatMap hex2).length = 32 := rfl
  simp only [hexToState, filter_stateToHex, hlen, if_true, hexPairs_flatMap_hex2, ofBytes_getD_bytes]

/-- Settles O57: the length policy, then the first wide character, then the codes as bytes (R222, R228). -/
theorem textToStateOutcomes : Obligations.TextToStateOutcomes := by
  intro policy text
  refine ⟨fun hp hlong => if_pos ⟨hp, hlong⟩, fun hlen => ⟨fun n c hn hc hwide hbefore => ?_, fun hfits => ?_⟩⟩
  · exact textToState_of_wide hlen (firstWideChar_eq_some hn hc hwide hbefore)
  · refine ⟨_, textToState_of_narrow hlen (firstWideChar_eq_none hfits), fun n hn => ?_⟩
    rw [Block.byte_ofBytes _ n hn, BitVec.toNat_ofNat, Nat.mod_eq_of_lt (getD_lt_of_narrow (hfits n hn))]

end Sys2Proof.Proofs

/-! SUPPORT. Proofs about the host around the core (45_host_codec.md R226, R227; 70_reset_and_hazards.md R277): one command
driven from IDLE to its result is the atomic transition; then the statements about encrypt and decrypt. -/

namespace Sys2Proof.Machine

/-! ## One command driven to its result -/

theorem nextEdge_of_inputs_nil {s : State} (h : s.inputs = []) : s.nextEdge = s := by
  rw [State.nextEdge, h, List.tail_nil, ← h]

theorem pins_rst_of_inputs_nil {s : State} (h : s.inputs = []) : s.pins.rst = false :=
  pins_rst_of_forall (by simp [h])

/-- A core that is ready with done = 1 ends the host's wait (R277). -/
theorem waitDone_of_ready {s : State} (h : (s.cmdReady && s.done) = true) (n : Nat) : waitDone n s = .next (s, true) := by
  cases n with
  | zero => rw [waitDone, h]
  | succ n => rw [waitDone, if_pos h]

/-- While the core runs, the host waits one edge more, with nothing presented (R277). -/
theorem waitDone_of_run {s t : State} (hp : s.phase = .run) (hin : s.inputs = []) (h : step s = .next t) (n : Nat) :
    waitDone (n + 1) s = waitDone n t := by
  have hbusy : ¬ (s.cmdReady && s.done) = true := by simp [State.cmdReady, hp]
  have hself : ({ s with inputs := [] } : State) = s := by rw [← hin]
  rw [waitDone, if_neg hbusy, hself, h]

/-- The host waits for the rest of a running command, if its bound allows the `k` micro-steps left (R277, R281). -/
theorem waitDone_run (k n : Nat) {s : State} (hp : s.phase = .run) (hin : s.inputs = []) (hk : 0 < k) (hkn : k ≤ n)
    (hu : s.upc + k = latency s.prog) : waitDone n s = .next (afterMicroSteps s.prog k s, true) := by
  induction k generalizing n s with
  | zero => omega
  | succ k ih =>
    obtain ⟨n, rfl⟩ := Nat.exists_eq_add_of_le' (Nat.le_trans hk hkn)
    obtain ⟨op, hop⟩ := exists_microOp (i := s.prog) (s := s) (by omega)
    have hin' : (microNext s.prog op s).inputs = [] := by rw [microNext_inputs, hin]
    have hstep := step_of_microOp (pins_rst_of_inputs_nil hin) hp hop
    rw [nextEdge_of_inputs_nil hin'] at hstep
    rw [waitDone_of_run hp hin hstep]
    by_cases hlast : s.upc + 1 = latency s.prog
    · obtain rfl : k = 0 := by omega
      rw [afterMicroSteps_last hop hlast]
      exact waitDone_of_ready (by simp [microNext, hlast, State.cmdReady]) n
    · obtain ⟨hp', hu'⟩ := microNext_run (op := op) hp hlast
      have hprog := microNext_prog s.prog op s
      rw [afterMicroSteps_succ hop hlast, ih n hp' hin' (by omega) (by omega) (by rw [hprog]; omega), hprog]

/-- No command takes longer than the host waits (R281). -/
theorem latency_le_doneFuel (i : Instr) : latency i ≤ doneFuel := by
  cases i with
  | kexp n => simp only [latency, microprogram, Option.length_toList]; split <;> decide
  | arki n => simp only [latency, microprogram, Option.length_toList]; split <;> decide
  | _ => decide

/-- An IDLE core accepts the request at the first edge (R275). -/
theorem driveUntilAccepted_idle {r : Request} {i : Instr} {s : State} (hp : s.phase = .idle)
    (hd : decode r.word = .command i) (n : Nat) :
    driveUntilAccepted r (n + 1) s =
      .next ((acceptCommand i { s with inputs := [r.present] }).nextEdge, true) := by
  have hready : s.cmdReady = true := decide_eq_true hp
  have hstep := step_of_command (s := { s with inputs := [r.present] }) rfl hp rfl hd
  rw [driveUntilAccepted, hready, if_pos rfl, hstep]
  rfl

/-- A legal command driven from IDLE gives its atomic transition, on the operands of the request (R200, R277). -/
theorem driveCommand_idle {r : Request} {i : Instr} {s : State} (hp : s.phase = .idle) (hd : decode r.word = .command i) :
    driveCommand r s = some { command i { s with inputs := [r.present] } with inputs := [] } := by
  have hw := wellFormed_of_decode hd
  have haccept := driveUntilAccepted_idle hp hd 50
  generalize hs : ({ s with inputs := [r.present] } : State) = s0 at haccept ⊢
  have hp0 : s0.phase = .idle := by rw [← hs]; exact hp
  have hin : (acceptCommand i s0).nextEdge.inputs = [] := by simp [← hs]
  have hend : (acceptCommand i s0).nextEdge = { acceptCommand i s0 with inputs := [] } := by
    rw [← hin]; rfl
  have hwait : waitDone doneFuel (acceptCommand i s0).nextEdge = .next ({ command i s0 with inputs := [] }, true) := by
    by_cases hl : latency i = 0
    · obtain rfl := eq_load_of_latency_zero hw hl
      rw [waitDone_of_ready (by simp [State.cmdReady, acceptCommand_phase Instr.load hp0]), hend, acceptCommand_load hp0]
    · have hrun : (acceptCommand i s0).nextEdge.phase = .run := by simp [acceptCommand_phase i hp0, hl]
      rw [waitDone_run (latency i) doneFuel hrun hin (Nat.pos_of_ne_zero hl) (latency_le_doneFuel i) (by simp), hend,
        afterMicroSteps_withInputs, acceptCommand_prog, afterMicroSteps_acceptCommand hw s0 hl]
  rw [driveCommand, acceptFuel, haccept]
  simp only [hwait]

/-- The host reads the packed STATE (R27, R52). -/
theorem unpack_blockOut {s : State} (h : s.wState = true) : unpack s.blockOut = s.state := by
  rw [State.blockOut, State.readState, if_pos h, unpack_pack]

theorem decode_encRequest (k p : Block) : decode (encRequest k p).word = .command .enc :=
  (show decode 0x10 = .command .enc by decide)

theorem decode_decRequest (k c : Block) : decode (decRequest k c).word = .command .dec :=
  (show decode 0x20 = .command .dec by decide)

/-- Driving the ENC request encrypts (R226). -/
theorem driveCommand_encRequest (k p : Block) {s : State} (hp : s.phase = .idle) :
    ∃ u, driveCommand (encRequest k p) s = some u ∧ unpack u.blockOut = aesEnc k p ∧ u.phase = .idle ∧ u.done = true ∧
      u.err = s.err := by
  refine ⟨_, driveCommand_idle hp (decode_encRequest k p), ?_⟩
  rw [command_enc, settleCommand_eq (by exact hp), unpack_blockOut rfl]
  exact ⟨congrArg₂ aesEnc (unpack_pack k) (unpack_pack p), hp, rfl, rfl⟩

/-- Driving the DEC request decrypts (R227). -/
theorem driveCommand_decRequest (k c : Block) {s : State} (hp : s.phase = .idle) :
    ∃ u, driveCommand (decRequest k c) s = some u ∧ unpack u.blockOut = aesDec k c := by
  refine ⟨_, driveCommand_idle hp (decode_decRequest k c), ?_⟩
  rw [command_dec, settleCommand_eq (by exact hp), unpack_blockOut rfl]
  exact congrArg₂ aesDec (unpack_pack k) (unpack_pack c)

/-- A block whose bytes are the codes of a 16-character text is read as that text (R224). -/
theorem stateToText_eq {x : Block} {text : Text} (hlen : text.length = 16)
    (hx : ∀ n < 16, (x.byte n).toNat = text.getD n 0) : stateToText x = text := by
  apply List.ext_getElem
  · simp [stateToText, Block.bytes, hlen]
  · intro n hn hn'
    have hbyte := hx n (hlen ▸ hn')
    simpa [stateToText, Block.bytes, hn'] using hbyte

end Sys2Proof.Machine

namespace Sys2Proof.Proofs

open Sys2Proof.Machine

/-- Settles O58: the two texts are blocks, and the ENC request driven to its result encrypts (R226). -/
theorem encryptReturnsTheCiphertext : Obligations.EncryptReturnsTheCiphertext := by
  intro cfg keyText plainText k p s hs hk hp
  obtain ⟨u, hu, hout, hrest⟩ := driveCommand_encRequest k p hs
  refine ⟨u, ?_, hrest⟩
  simp only [encrypt, hk, hp, hu, Option.map_some, hout]

/-- Settles O59: the hex text reads back as the ciphertext, whose decryption is the plain text's block (R227). -/
theorem decryptUndoesEncrypt : Obligations.DecryptUndoesEncrypt := by
  intro cfg keyText plainText k s s' hs hs' hk hlen hcodes
  have hfits : ∀ m < 16, ∀ e, plainText[m]? = some e → e ≤ 0xFF := fun m _ e he => hcodes e (List.mem_of_getElem? he)
  obtain ⟨p, hp, hbytes⟩ := ((textToStateOutcomes cfg.padPolicy plainText).2 (.inr hlen.le)).2 hfits
  obtain ⟨u, hencrypt, -⟩ := encryptReturnsTheCiphertext cfg keyText plainText k p s hs hk hp
  obtain ⟨u', hu', hout⟩ := driveCommand_decRequest k (aesEnc k p) hs'
  refine ⟨_, u, u', hencrypt, ?_⟩
  simp only [decrypt, (hexTextRoundTrip (aesEnc k p) cfg.hexTrailingSpace).1, hk, hu', Option.map_some, hout,
    (cipherRoundTrip k p).1, stateToText_eq hlen hbytes]

end Sys2Proof.Proofs

/-! SUPPORT. Proofs about the run of a host program and its end (70_reset_and_hazards.md R283): first what one edge of a run
does, then the run of a running command to its end, and the statement. -/

namespace Sys2Proof.Machine

/-! ## One edge of a run -/

theorem runEnded_iff {left : List (BitVec 8)} {s : State} :
    runEnded left s = true ↔ left = [] ∧ s.phase = .idle ∧ ∀ p ∈ s.inputs, p.cmdValid = false := by
  simp [runEnded, and_assoc]

/-- At its end a run goes no further, whatever the bound. -/
theorem runToEnd_of_ended {left : List (BitVec 8)} {s : State} (h : runEnded left s = true) (n : Nat) :
    runToEnd n left s = some ⟨s, false⟩ := by
  cases n <;> rw [runToEnd, if_pos h]

theorem runToEnd_zero_of_not_ended {left : List (BitVec 8)} {s : State} (h : runEnded left s = false) :
    runToEnd 0 left s = none := by
  rw [runToEnd, h]
  rfl

section
variable {n : Nat} {left : List (BitVec 8)} {s : State} (hend : runEnded left s = false)
include hend

/-- An edge that reads an unwritten register leaves the run without an end (R244, R283). -/
theorem runToEnd_of_fault {r : DataReg} (h : checkedStep s = .error r) : runToEnd (n + 1) left s = none := by
  rw [runToEnd, hend, h]
  rfl

/-- An edge without reset that accepts no word. -/
theorem runToEnd_of_no_acceptance {t : State} (h : checkedStep s = .ok (.next t)) (hr : s.pins.rst = false)
    (ha : acceptedWord s = none) : runToEnd (n + 1) left s = runToEnd n left t := by
  rw [runToEnd, hend, h, hr, ha]
  rfl

/-- Everything that a run with an end that is not at it yet did (R283): its first edge was a reset edge, which cuts it, or it
goes on from the state after that edge. -/
theorem runToEnd_succ_some {e : RunEnd} (h : runToEnd (n + 1) left s = some e) :
    (∃ t, s.pins.rst = true ∧ step s = .next t ∧ e = ⟨t, true⟩) ∨ ∃ left' t, runToEnd n left' t = some e := by
  rw [runToEnd, hend, if_neg Bool.false_ne_true] at h
  cases hc : checkedStep s with
  | error r => simp [hc] at h
  | ok o =>
    cases o with
    | fault f => simp [hc] at h
    | refused r => simp [hc] at h
    | next t =>
      cases hr : s.pins.rst with
      | true =>
        have hstep : checkedStep s = .ok (step s) := checkedStep_of_none (unwrittenFault_of_not_running (.inl hr))
        simp only [hc, hr, if_true, Option.some.injEq] at h
        exact .inl ⟨t, rfl, by simpa [hc] using hstep.symm, h.symm⟩
      | false =>
        refine .inr ?_
        simp only [hc, hr, Bool.false_eq_true, if_false] at h
        cases ha : acceptedWord s with
        | none => rw [ha] at h; exact ⟨left, t, h⟩
        | some w =>
          cases left with
          | nil => simp [ha] at h
          | cons w' rest =>
            by_cases hw : w = w'
            · simp only [ha, hw, if_true] at h; exact ⟨rest, t, h⟩
            · simp [ha, hw] at h

end

/-- The edge that accepts the program's next word takes it off. -/
theorem runToEnd_of_acceptance {n : Nat} {w : BitVec 8} {rest : List (BitVec 8)} {s t : State}
    (h : checkedStep s = .ok (.next t)) (hr : s.pins.rst = false) (ha : acceptedWord s = some w) :
    runToEnd (n + 1) (w :: rest) s = runToEnd n rest t := by
  have hend : runEnded (w :: rest) s = false := rfl
  rw [runToEnd, hend, h, hr, ha]
  simp

/-- What every end of a run is: at rest with nothing more presented, or the state after a reset edge (R270, R283). -/
def RunEnd.Valid (e : RunEnd) : Prop :=
  (e.cut = false → e.final.phase = .idle ∧ ∀ p ∈ e.final.inputs, p.cmdValid = false) ∧
    (e.cut = true → e.final.phase = .idle ∧ e.final.done = false ∧ e.final.err = false ∧ ∀ r, e.final.written r = false)

theorem RunEnd.valid_of_ended {left : List (BitVec 8)} {s : State} (h : runEnded left s = true) :
    RunEnd.Valid ⟨s, false⟩ := by
  obtain ⟨-, hp, hq⟩ := runEnded_iff.mp h
  exact ⟨fun _ => ⟨hp, hq⟩, fun hcut => nomatch hcut⟩

theorem resetEdge_written (s : State) (r : DataReg) : (resetEdge s).written r = false := by
  cases r with
  | state => rfl
  | key => rfl
  | rk j => exact State.reset_wRk_get j

theorem RunEnd.valid_of_reset {s t : State} (hr : s.pins.rst = true) (h : step s = .next t) : RunEnd.Valid ⟨t, true⟩ := by
  rw [step_of_reset hr] at h
  cases h
  exact ⟨fun hcut => (nomatch hcut), fun _ => ⟨rfl, rfl, rfl, resetEdge_written s⟩⟩

theorem runToEnd_valid {n : Nat} {left : List (BitVec 8)} {s : State} {e : RunEnd} (h : runToEnd n left s = some e) :
    e.Valid := by
  induction n generalizing left s with
  | zero =>
    cases hend : runEnded left s with
    | true => rw [runToEnd_of_ended hend] at h; cases h; exact RunEnd.valid_of_ended hend
    | false => rw [runToEnd_zero_of_not_ended hend] at h; cases h
  | succ n ih =>
    cases hend : runEnded left s with
    | true => rw [runToEnd_of_ended hend] at h; cases h; exact RunEnd.valid_of_ended hend
    | false =>
      obtain ⟨t, hr, hstep, rfl⟩ | ⟨left', t, hrest⟩ := runToEnd_succ_some hend h
      · exact RunEnd.valid_of_reset hr hstep
      · exact ih hrest

/-! ## The run of one command -/

/-- The record of an unwritten read stays (log entry 4). -/
theorem faulted_eq_none_of_execMicroOps {ops : List MicroOp} {s : State} (h : (execMicroOps ops s).faulted = none) :
    s.faulted = none := by
  induction ops generalizing s with
  | nil => exact h
  | cons op ops ih =>
    have hfirst := ih h
    rw [execMicroOp_faulted, Option.or_eq_none_iff] at hfirst
    exact hfirst.1

/-- The host holds rst = 0 and presents no command at any edge to come. -/
def State.Quiet (s : State) : Prop := ∀ p ∈ s.inputs, p.rst = false ∧ p.cmdValid = false

theorem State.Quiet.pins {s : State} (h : s.Quiet) : s.pins.rst = false :=
  pins_rst_of_forall fun p hp => (h p (List.mem_of_mem_take hp)).1

theorem State.Quiet.tail {s t : State} (h : s.Quiet) (ht : t.inputs = s.inputs.tail) : t.Quiet :=
  fun p hp => h p (List.mem_of_mem_tail (ht ▸ hp))

theorem runEnded_of_run {s : State} (hp : s.phase = .run) (left : List (BitVec 8)) : runEnded left s = false := by
  simp [runEnded, hp]

/-- If no read is recorded over the micro-steps to come, the next one reads written registers alone. -/
theorem firstUnwritten_eq_none_of_afterMicroSteps {i : Instr} {k : Nat} {s : State} {op : MicroOp}
    (hop : (microprogram i)[s.upc]? = some op) (h : (afterMicroSteps i (k + 1) s).faulted = none) :
    s.firstUnwritten op.reads = none := by
  have hops : (execMicroOps (((microprogram i).drop s.upc).take (k + 1)) s).faulted = none := h
  rw [drop_eq_cons_of_getElem? hop, List.take_succ_cons, execMicroOps] at hops
  have hfirst := faulted_eq_none_of_execMicroOps hops
  rw [execMicroOp_faulted, Option.or_eq_none_iff] at hfirst
  exact hfirst.2

/-- From RUN, with all words accepted and nothing presented, a run that has recorded no unwritten read ends after the `k`
micro-steps left, if none of them records one, and has no end otherwise (R244, R283). -/
theorem runToEnd_run (k n : Nat) {s : State} (hp : s.phase = .run) (hq : s.Quiet) (hf : s.faulted = none) (hk : 0 < k)
    (hu : s.upc + k = latency s.prog) :
    runToEnd n [] s =
      if (afterMicroSteps s.prog k s).faulted = none ∧ k ≤ n
        then some ⟨{ afterMicroSteps s.prog k s with inputs := s.inputs.drop k }, false⟩ else none := by
  induction k generalizing n s with
  | zero => omega
  | succ k ih =>
    have hbusy := runEnded_of_run hp []
    cases n with
    | zero => rw [runToEnd_zero_of_not_ended hbusy, if_neg (by omega)]
    | succ n =>
      obtain ⟨op, hop⟩ := exists_microOp (i := s.prog) (s := s) (by omega)
      have hfault := unwrittenFault_of_run hq.pins hp hop
      cases hread : s.firstUnwritten op.reads with
      | some r =>
        rw [runToEnd_of_fault hbusy (checkedStep_of_some (hfault.trans hread)), if_neg]
        rintro ⟨hnone, -⟩
        simp [firstUnwritten_eq_none_of_afterMicroSteps hop hnone] at hread
      | none =>
        have hstep : checkedStep s = .ok (.next (microNext s.prog op s).nextEdge) := by
          rw [checkedStep_of_none (hfault.trans hread), step_of_microOp hq.pins hp hop]
        have hin : (microNext s.prog op s).nextEdge.inputs = s.inputs.tail := by simp
        have hf' : (microNext s.prog op s).nextEdge.faulted = none := by simp [hf, hread]
        rw [runToEnd_of_no_acceptance hbusy hstep hq.pins (by simp [acceptedWord, hp])]
        by_cases hlast : s.upc + 1 = latency s.prog
        · obtain rfl : k = 0 := by omega
          have hend : runEnded [] (microNext s.prog op s).nextEdge = true :=
            runEnded_iff.mpr ⟨rfl, by simp [microNext, hlast], fun p h => (hq.tail hin p h).2⟩
          rw [runToEnd_of_ended hend, afterMicroSteps_last hop hlast, if_pos ⟨hf', by omega⟩, State.nextEdge,
            microNext_inputs, List.drop_one]
        · obtain ⟨hp', hu'⟩ := microNext_run (op := op) hp hlast
          have hprog : (microNext s.prog op s).nextEdge.prog = s.prog := microNext_prog s.prog op s
          rw [ih n (s := (microNext s.prog op s).nextEdge) hp' (hq.tail hin) hf' (by omega)
            (by rw [hprog, State.nextEdge_upc]; omega), hprog, hin, List.drop_tail, State.nextEdge,
            afterMicroSteps_withInputs, afterMicroSteps_succ hop hlast]
          simp only [Nat.add_le_add_iff_right]

/-- The samples of a request for a legal command: its presentation, then as many quiet edges as the command takes. -/
theorem samples_of_command {r : Request} {i : Instr} (hd : decode r.word = .command i) :
    r.samples = r.present :: List.replicate (latency i) quietPins := by
  rw [Request.samples, hd]

/-- The run of a program of one legal command on an IDLE core (R283): it ends after the command's L + 1 edges in the state of
the atomic transition if that records no unwritten read, and has no end otherwise. -/
theorem runToEnd_of_command {r : Request} {i : Instr} {s : State} (hd : decode r.word = .command i) (hp : s.phase = .idle)
    (hin : s.inputs = r.samples) (hf : s.faulted = none) (n : Nat) :
    runToEnd n [r.word] s =
      if (command i s).faulted = none ∧ latency i + 1 ≤ n then some ⟨{ command i s with inputs := [] }, false⟩
        else none := by
  have hw := wellFormed_of_decode hd
  rw [samples_of_command hd] at hin
  have hpins : s.pins = r.present := by simp [State.pins, hin]
  have hr : s.pins.rst = false := by rw [hpins]; rfl
  have hv : s.pins.cmdValid = true := by rw [hpins]; rfl
  have hcmd : s.pins.cmd = r.word := by rw [hpins]; rfl
  cases n with
  | zero => rw [runToEnd_zero_of_not_ended rfl, if_neg (by omega)]
  | succ n =>
    have hstep : checkedStep s = .ok (.next (acceptCommand i s).nextEdge) := by
      rw [checkedStep_of_none (unwrittenFault_of_not_running (.inr hp)), step_of_command hr hp hv (hcmd ▸ hd)]
    have hin' : (acceptCommand i s).nextEdge.inputs = List.replicate (latency i) quietPins := by simp [hin]
    have hf' : (acceptCommand i s).nextEdge.faulted = none := by simp [hf]
    rw [runToEnd_of_acceptance hstep hr (by simp [acceptedWord, hr, hp, hv, hcmd])]
    by_cases hl : latency i = 0
    · obtain rfl := eq_load_of_latency_zero hw hl
      have hend : runEnded [] (acceptCommand .load s).nextEdge = true :=
        runEnded_iff.mpr ⟨rfl, by simp [acceptCommand_phase Instr.load hp], by simp [hin]⟩
      have hcf : (command .load s).faulted = none := hf
      rw [runToEnd_of_ended hend, if_pos ⟨hcf, by simp⟩, ← acceptCommand_load hp, State.nextEdge, acceptCommand_inputs, hin]
      rfl
    · have hrun : (acceptCommand i s).nextEdge.phase = .run := by simp [acceptCommand_phase i hp, hl]
      have hquiet : (acceptCommand i s).nextEdge.Quiet := by
        intro p hmem
        rw [hin'] at hmem
        cases List.eq_of_mem_replicate hmem
        exact ⟨rfl, rfl⟩
      have hprog : (acceptCommand i s).nextEdge.prog = i := by simp
      have hmicro : afterMicroSteps i (latency i) (acceptCommand i s).nextEdge =
          { command i s with inputs := (acceptCommand i s).inputs.tail } := by
        rw [State.nextEdge, afterMicroSteps_withInputs, afterMicroSteps_acceptCommand hw s hl]
      rw [runToEnd_run (latency i) n hrun hquiet hf' (Nat.pos_of_ne_zero hl) (by simp), hin', hprog, hmicro]
      simp

end Sys2Proof.Machine

namespace Sys2Proof.Proofs

open Sys2Proof.Machine

/-- Settles O60: every end of a run is at rest or after a reset edge, and the run of one command is the acceptance and its
micro-steps, of which each must read written registers (R283, R200). -/
theorem runEndsWhenItsCommandsAreDone : Obligations.RunEndsWhenItsCommandsAreDone := by
  refine ⟨fun n words s e => runToEnd_valid, fun r i s n hd hp hin hf => ⟨fun hnone => ?_, fun hsome => ?_⟩⟩
  · simp [runToEnd_of_command hd hp hin hf, hnone]
  · simp [runToEnd_of_command hd hp hin hf, hsome]

end Sys2Proof.Proofs
